-- ==== Sys2Proof/Word.lean ====
section
/-! DEFINITION. The word types: bytes of `storage` and of the transport, command words, coordinates
(rules R11, R21, R60, R62). -/

namespace Sys2Proof

/-- A byte; bit 0 is the least significant (R11). -/
abbrev Byte := BitVec 8

/-- A command word `cmd_word[47:0]` (R60). -/
abbrev Word := BitVec 48

/-- A coordinate operand, 16 bits, read as two's complement (R62). -/
abbrev Coord := BitVec 16

end Sys2Proof
end

