-- ==== Sys2Proof/Config.lean ====
section
/-! DEFINITION. The configuration of one block (rules R6, R9, R10, R35), the constants the spec leaves
open, and the free values. -/

namespace Sys2Proof

/-- What is fixed when the block is built (R6, R9, R10). `ROW_MIN`, `ROW_MAX` and the derived constants
of R8 are computed from it in Machine/Params.lean. -/
structure Config where
  /-- `WIDTH`, pixels in a row (R6). -/
  width : Nat
  /-- `HEIGHT`, rows (R6). -/
  height : Nat
  /-- `BPP`, bits per pixel (R6). -/
  bpp : Nat
  /-- `COL_MIN` (R9). -/
  colMin : Byte
  /-- `COL_MAX` (R9). -/
  colMax : Byte
  /-- `CMD_SET_COL` (R10, R70). -/
  cmdSetCol : Byte
  /-- `CMD_SET_ROW` (R10, R70). -/
  cmdSetRow : Byte
  /-- `CMD_WRITE_RAM` (R10, R70). -/
  cmdWriteRam : Byte
  /-- `INIT_SEQ`, a list of command bytes, each with its data bytes (R10, R72). -/
  initSeq : List (Byte × List Byte)
  /-- `TRANSPORT_FALLIBLE` (R10, R125). -/
  fallible : Bool
  /-- `COL_BYTES`, used by the device model only (R10, R126). R10 types it a positive integer and R7 does not
  list it; DESIGN CHOICE: 0 is not refused (log 25). -/
  colBytes : Nat
deriving DecidableEq, Repr

namespace Config

/-- `CMD_SET_COL` of the instance: open (R10, D13), no value is known of it. -/
opaque openSetCol : Byte

/-- `CMD_SET_ROW` of the instance: open (R10, D13). -/
opaque openSetRow : Byte

/-- `CMD_WRITE_RAM` of the instance: open (R10, D13). -/
opaque openWriteRam : Byte

/-- `INIT_SEQ` of the instance: open (R10, D14). -/
opaque openInitSeq : List (Byte × List Byte)

/-- FREE VALUE: the byte at an address of `storage` that nothing has written since the reset numbered
`epoch` (R33, R171, U5; log 3). -/
opaque freeByte (epoch address : Nat) : Byte

/-- FREE VALUE: whether the sink answers the byte transfer numbered `n` with `tx_fail`, where the list
of answers given in advance has run out (R125, U14; log 8). -/
opaque freeTxFail (n : Nat) : Bool

/-- The instance of this hardware: 256 × 64 pixels of 4 bits, columns 0x1C..0x5B, infallible transport
(R6, R9, D12, D15, D17), two bytes in a controller column (D25, C1). -/
def theInstance : Config where
  width := 256
  height := 64
  bpp := 4
  colMin := 0x1C
  colMax := 0x5B
  cmdSetCol := openSetCol
  cmdSetRow := openSetRow
  cmdWriteRam := openWriteRam
  initSeq := openInitSeq
  fallible := false
  colBytes := 2

end Config

end Sys2Proof
end

