-- ==== Sys2Proof/Machine/Params.lean ====
section
/-! DEFINITION. The derived constants of the configuration (rules R8, R9, R23). -/

namespace Sys2Proof

/-- `N`, pixels in a byte (R8). -/
def Config.perByte (c : Config) : Nat := 8 / c.bpp

/-- `MAXNATIVE`, the greatest native value (R8). -/
def Config.maxNative (c : Config) : Nat := 2 ^ c.bpp - 1

/-- `ROW_BYTES`, bytes in a pixel row (R8). -/
def Config.rowBytes (c : Config) : Nat := c.width / c.perByte

/-- `FB_BYTES`, bytes of `storage` (R8). -/
def Config.fbBytes (c : Config) : Nat := c.height * c.rowBytes

/-- `ADDR_W`, the smallest `w` with `2^w ≥ FB_BYTES` (R8). The search stops at 32, which no well-formed
configuration reaches (R7). -/
def Config.addrWidth (c : Config) : Nat :=
  ((List.range 32).find? fun w => decide (c.fbBytes ≤ 2 ^ w)).getD 32

/-- `STEP`, the intensities that share a native value (R8). -/
def Config.stepSize (c : Config) : Nat := 255 / c.maxNative

/-- `ROW_MIN` (R9). -/
def Config.rowMin (_ : Config) : Byte := 0

/-- `ROW_MAX` (R9). -/
def Config.rowMax (c : Config) : Byte := BitVec.ofNat 8 (c.height - 1)

end Sys2Proof
end

