-- ==== Sys2Proof/Syntax.lean ====
section
/-! DEFINITION. The commands (rule R61) and the assembly terms (rules R73, R74). -/

namespace Sys2Proof

/-- The six commands, one constructor for each row of the opcode table (R61), with the operands each
uses (R65). Every value of an operand can be encoded. -/
inductive Instr where
  /-- NOP (R140). -/
  | nop
  /-- INIT (R112). -/
  | init
  /-- SETPIXEL x, y, i (R90). -/
  | setPixel (x y : Coord) (i : Byte)
  /-- FILL i (R92). -/
  | fill (i : Byte)
  /-- FLUSH (R115). -/
  | flush
  /-- GETPIXEL x, y (R94). -/
  | getPixel (x y : Coord)
deriving DecidableEq, Repr

/-- A line of assembly (R73) with the operands as the programmer writes them, and the
pseudo-instructions CLEAR and SETNATIVE (R74). -/
inductive Asm where
  | nop
  | init
  | setPixel (x y i : Int)
  | fill (i : Int)
  | flush
  | getPixel (x y : Int)
  /-- Pseudo-instruction CLEAR. -/
  | clear
  /-- Pseudo-instruction SETNATIVE x, y, q. -/
  | setNative (x y q : Int)
deriving DecidableEq, Repr

end Sys2Proof
end

