-- ==== Sys2Proof/WellFormed.lean ====
section
/-! DEFINITION. Which configurations have a meaning (rule R7) and which assembly terms can be encoded
(rules R73, R74). An `Instr` needs no check: its operands are exactly the bits of their fields. -/

namespace Sys2Proof

/-- R7: a depth that divides 8, no partial byte at the end of a row, at least one pixel, coordinates that
are non-negative 16-bit numbers, and a `ROW_MAX` that fits one byte. `COL_BYTES` is not checked (DESIGN
CHOICE, log 25). -/
abbrev Config.WellFormed (c : Config) : Prop :=
  (c.bpp = 1 ∨ c.bpp = 2 ∨ c.bpp = 4 ∨ c.bpp = 8) ∧ c.width % (8 / c.bpp) = 0 ∧
    1 ≤ c.width ∧ c.width ≤ 32767 ∧ 1 ≤ c.height ∧ c.height ≤ 32767 ∧ c.height ≤ 256

/-- A coordinate that the 16-bit field can hold (R62, R73). -/
abbrev Asm.Coordinate (v : Int) : Prop := -32768 ≤ v ∧ v ≤ 32767

/-- An intensity that the 8-bit field can hold (R63, R73). -/
abbrev Asm.Intensity (v : Int) : Prop := 0 ≤ v ∧ v ≤ 255

/-- R73, R74: every operand is in its range; anything else is an assembly error, not a truncation. -/
def Asm.wellFormed (c : Config) : Asm → Bool
  | .nop | .init | .flush | .clear => true
  | .setPixel x y i => decide (Coordinate x ∧ Coordinate y ∧ Intensity i)
  | .fill i => decide (Intensity i)
  | .getPixel x y => decide (Coordinate x ∧ Coordinate y)
  | .setNative x y q => decide (Coordinate x ∧ Coordinate y ∧ 0 ≤ q ∧ q ≤ c.maxNative)

end Sys2Proof
end

