-- ==== Sys2Proof/Decode.lean ====
section
/-! DEFINITION. The decoder (rules R60 to R67, R75), the encoder, and the assembler (rules R73, R74). -/

namespace Sys2Proof

/-- `op = cmd_word[47:44]` (R60). -/
def fieldOp (w : Word) : BitVec 4 := w.extractLsb' 44 4

/-- `rsv = cmd_word[43:40]` (R60, R64). -/
def fieldRsv (w : Word) : BitVec 4 := w.extractLsb' 40 4

/-- `i = cmd_word[39:32]` (R60, R63). -/
def fieldI (w : Word) : Byte := w.extractLsb' 32 8

/-- `y = cmd_word[31:16]` (R60, R62). -/
def fieldY (w : Word) : Coord := w.extractLsb' 16 16

/-- `x = cmd_word[15:0]` (R60, R62). -/
def fieldX (w : Word) : Coord := w.extractLsb' 0 16

/-- Why a word is illegal (R66). -/
inductive Illegal where
  /-- `rsv ≠ 0` (R64). -/
  | reservedField
  /-- `op` is one of 0x6 .. 0xF (R61). -/
  | reservedOpcode
deriving DecidableEq, Repr

/-- What a word decodes to: a command, or an illegal word with the reason. -/
inductive Decoded where
  | legal (i : Instr)
  | illegal (why : Illegal)
deriving DecidableEq, Repr

/-- The opcode map (R61) on the fields of a word whose `rsv` is zero; operands an opcode does not use are
ignored (R65). -/
def decodeFields (op : BitVec 4) (i : Byte) (y x : Coord) : Decoded :=
  match op.toNat with
  | 0 => .legal .nop
  | 1 => .legal .init
  | 2 => .legal (.setPixel x y i)
  | 3 => .legal (.fill i)
  | 4 => .legal .flush
  | 5 => .legal (.getPixel x y)
  | _ => .illegal .reservedOpcode

/-- The decoder, total on 48-bit words (R75). -/
def decode (w : Word) : Decoded :=
  if fieldRsv w = 0 then decodeFields (fieldOp w) (fieldI w) (fieldY w) (fieldX w)
  else .illegal .reservedField

/-- A word of format `C` from its fields, `op` in the high-order bits (R60). -/
def wordOfFields (op rsv : BitVec 4) (i : Byte) (y x : Coord) : Word := op ++ rsv ++ i ++ y ++ x

/-- The encoder: the canonical word of a command, unused fields zero (R75). -/
def encode : Instr → Word
  | .nop => wordOfFields 0 0 0 0 0
  | .init => wordOfFields 1 0 0 0 0
  | .setPixel x y i => wordOfFields 2 0 i y x
  | .fill i => wordOfFields 3 0 i 0 0
  | .flush => wordOfFields 4 0 0 0 0
  | .getPixel x y => wordOfFields 5 0 0 y x

/-- `match` of the command's opcode-table row (R61). -/
def tableMatch : Instr → Word
  | .nop => 0x000000000000
  | .init => 0x100000000000
  | .setPixel _ _ _ => 0x200000000000
  | .fill _ => 0x300000000000
  | .flush => 0x400000000000
  | .getPixel _ _ => 0x500000000000

/-- `mask` of every opcode-table row: the `op` and `rsv` fields (R61). -/
def tableMask : Word := 0xFF0000000000

/-- The assembler: the command of an assembly term, or none where an operand is out of its range (R73);
CLEAR is `FILL 0` and SETNATIVE x, y, q is `SETPIXEL x, y, q·STEP` (R74). -/
def assemble (c : Config) (a : Asm) : Option Instr :=
  if a.wellFormed c then
    some <| match a with
      | .nop => .nop
      | .init => .init
      | .setPixel x y i => .setPixel (BitVec.ofInt 16 x) (BitVec.ofInt 16 y) (BitVec.ofInt 8 i)
      | .fill i => .fill (BitVec.ofInt 8 i)
      | .flush => .flush
      | .getPixel x y => .getPixel (BitVec.ofInt 16 x) (BitVec.ofInt 16 y)
      | .clear => .fill 0
      | .setNative x y q =>
        .setPixel (BitVec.ofInt 16 x) (BitVec.ofInt 16 y) (BitVec.ofInt 8 (q * c.stepSize))
  else none

/-- The command word whose low `nbits` bits are those of `w` and whose other bits are zero. A command word
is one parallel value, so the opcode table's bit numbers are the word's own (R43, R60). -/
def tableWord (nbits w : Nat) : Word := BitVec.ofNat 48 (w % 2 ^ nbits)

/-- The instruction the decoder reads from the opcode-table word `w`, none where it is illegal. -/
def decodeTableWord (nbits w : Nat) : Option Instr :=
  match decode (tableWord nbits w) with
  | .legal i => some i
  | .illegal _ => none

end Sys2Proof
end

