-- ==== Sys2Proof/Machine/State.lean ====
section
/-! DEFINITION. The machine's state as plain data (rules R20 to R35), its reset value (R33), and the
reasons a step can stop. -/

namespace Sys2Proof.Machine

/-- `seq_phase` (R23); the codes 11 to 15 are unused. -/
inductive Phase where
  | idle
  | initSeq
  | zero
  | fColCmd
  | fColMin
  | fColMax
  | fRowCmd
  | fRowMin
  | fRowMax
  | fWram
  | fStream
deriving DecidableEq, Repr

/-- `storage` (R21): the bytes written since the last reset, addresses strictly rising. An address that
is not listed holds an unspecified byte (R33, log 3). -/
structure Memory where
  cells : List Host.Cell
deriving DecidableEq, Repr

/-- The canonical form of a memory: addresses strictly rising. -/
abbrev Memory.wf (m : Memory) : Prop := m.cells.Pairwise fun p q => p.1 < q.1

/-- The writable bits of `STATUS` (R24); the register as the host reads it is `Status.word`. -/
structure Status where
  /-- Bit 0, `init_done`. -/
  initDone : Bool
  /-- Bit 1, `busy`. -/
  busy : Bool
  /-- Bit 2, `err_illegal`. -/
  errIllegal : Bool
  /-- Bit 3, `err_noinit`. -/
  errNoinit : Bool
  /-- Bit 4, `err_xfer`. -/
  errXfer : Bool
deriving DecidableEq, Repr

/-- `RESP` (R25); the register as the host reads it is `Resp.word`. -/
structure Resp where
  /-- Bit 8, `resp_hit`. -/
  hit : Bool
  /-- Bits 7:0, `resp_native`. -/
  native : Byte
deriving DecidableEq, Repr

/-- One byte transfer on the transport port (R32, R69). -/
structure Transfer where
  /-- `tx_dc`: false for a command byte, true for a data byte. -/
  dc : Bool
  /-- `tx_bulk`: true for every byte of a `Bulk` event. -/
  bulk : Bool
  /-- `tx_last`: true on the final byte of a `Bulk` event. -/
  last : Bool
  /-- `tx_byte`. -/
  byte : Byte
deriving DecidableEq, Repr

/-- The two views of a command (R122): one transition for the whole command, or one for each sequencer
step (log 1). -/
inductive View where
  | bigStep
  | smallStep
deriving DecidableEq, Repr

/-- The whole machine: the block (R20 b), its output history (R27), and what the host and the sink will
present to it (R20 a, c). -/
structure State where
  /-- The configuration, which no step changes (R35, log 5). -/
  cfg : Config
  /-- `storage` (R21). -/
  storage : Memory
  /-- Operand latch `op_code` (R22). -/
  opCode : BitVec 4
  /-- Operand latch `op_i` (R22). -/
  opI : Byte
  /-- Operand latch `op_y` (R22). -/
  opY : Coord
  /-- Operand latch `op_x` (R22). -/
  opX : Coord
  /-- `seq_phase` (R23). -/
  phase : Phase
  /-- `cursor`, an index that never wraps (R23, log 16). -/
  cursor : Nat
  /-- `STATUS` (R24). -/
  status : Status
  /-- `RESP` (R25). -/
  resp : Resp
  /-- History: every byte transfer made, oldest first (R27, R69, log 11). -/
  wire : List Transfer
  /-- History: the device was left in the middle of a transfer and no FLUSH or INIT has completed since
  (R172, R179, log 13). -/
  deviceStale : Bool
  /-- The host: the command words it will present, oldest first (R30, log 2). -/
  program : List Word
  /-- The `rst` input, one sample for each step, deasserted past the end (R170, log 14). -/
  rstIn : List Bool
  /-- The `tx_ready` input, one sample for each offered byte (R32, log 9). -/
  readyIn : List Bool
  /-- The sample of `tx_ready` past the end of `readyIn`: false is a sink that takes no byte any more, which
  hangs the block in either view (R186, U13, log 9). -/
  readyAfter : Bool
  /-- The `tx_fail` input of a fallible transport, one answer for each transfer (R125, log 8). -/
  failIn : List Bool
  /-- The model's counter of resets, which the unspecified bytes depend on (R33, log 3). -/
  epoch : Nat
  /-- Which view of R122 a step follows (log 1). -/
  view : View
deriving DecidableEq, Repr

/-- Why a step stops the machine. -/
inductive Fault where
  /-- An access to `storage` at or above `FB_BYTES`, raised by every checked access. R50 says no command
  presents such an address, and no state of the invariant does; safe (log 18). -/
  | addressOutsideStorage
deriving DecidableEq, Repr

/-- Why a step has no meaning. -/
inductive Refusal where
  /-- An instruction that has no meaning yet; raised by no arm of `exec`. -/
  | notModelled (mnemonic : String)
  /-- The configuration breaks R7, which says to refuse it; raised by every step and every command; safe
  (log 7). -/
  | badConfiguration
deriving DecidableEq, Repr

/-- The machine right after reset (R33, R170), of the instance's configuration, with nothing presented to
it. The latches' zeros are the model's choice (log 4). -/
def State.reset : State where
  cfg := Config.theInstance
  storage := ⟨[]⟩
  opCode := 0
  opI := 0
  opY := 0
  opX := 0
  phase := .idle
  cursor := 0
  status := ⟨false, false, false, false, false⟩
  resp := ⟨false, 0⟩
  wire := []
  deviceStale := true
  program := []
  rstIn := []
  readyIn := []
  readyAfter := true
  failIn := []
  epoch := 0
  view := .bigStep

end Sys2Proof.Machine
end

