-- ==== Sys2Proof/Machine/Flags.lean ====
section
/-! DEFINITION. The status and response registers as the host reads them (rules R24, R25, R31, R142,
R143), the error flags (rule R153), and the codes of `seq_phase` (rule R23). -/

namespace Sys2Proof.Machine

/-- The block's three sticky error flags (R153). -/
inductive ErrorFlag where
  | illegal
  | noinit
  | xfer
deriving DecidableEq, Repr

/-- The spec's label of an error (R153). -/
def ErrorFlag.code : ErrorFlag → Nat
  | .illegal => 1
  | .noinit => 2
  | .xfer => 3

/-- The `STATUS` bit of an error (R24, R153). -/
def ErrorFlag.bit : ErrorFlag → Nat
  | .illegal => 2
  | .noinit => 3
  | .xfer => 4

/-- A status with one error flag set (R154). -/
def Status.withError (e : ErrorFlag) (st : Status) : Status :=
  match e with
  | .illegal => { st with errIllegal := true }
  | .noinit => { st with errNoinit := true }
  | .xfer => { st with errXfer := true }

/-- `STATUS` as an 8-bit register (R24): bits 7:5 are hardwired 0, and so is `err_xfer` unless the
transport is fallible. -/
def Status.word (fallible : Bool) (st : Status) : BitVec 8 :=
  (0 : BitVec 3) ++ BitVec.ofBool (st.errXfer && fallible) ++ BitVec.ofBool st.errNoinit ++
    BitVec.ofBool st.errIllegal ++ BitVec.ofBool st.busy ++ BitVec.ofBool st.initDone

/-- `RESP` as a 9-bit register (R25). -/
def Resp.word (r : Resp) : BitVec 9 := BitVec.ofBool r.hit ++ r.native

/-- The `status` port (R31, R142). -/
def State.statusPort (s : State) : BitVec 8 := s.status.word s.cfg.fallible

/-- The `resp` port (R31, R143). -/
def State.respPort (s : State) : BitVec 9 := s.resp.word

/-- `cmd_ready` (R144). -/
def State.cmdReady (s : State) : Bool := !s.status.busy

/-- The code of a `seq_phase` (R23). -/
def Phase.code : Phase → BitVec 4
  | .idle => 0
  | .initSeq => 1
  | .zero => 2
  | .fColCmd => 3
  | .fColMin => 4
  | .fColMax => 5
  | .fRowCmd => 6
  | .fRowMin => 7
  | .fRowMax => 8
  | .fWram => 9
  | .fStream => 10

end Sys2Proof.Machine
end

