-- ==== Sys2Proof/Machine/Operands.lean ====
section
/-! DEFINITION. The combinational datapath of the Framebuffer Store (rules R80 to R89): quantiser, bounds
check, address generator, barrel shifter, masks, bit-select multiplexer and merge. -/

namespace Sys2Proof.Machine

/-- The quantiser (R80, R82): the product and the quotient are over the naturals. -/
def quant (c : Config) (i : Byte) : Byte :=
  BitVec.ofNat 8 (i.toNat * c.maxNative / 255 &&& c.maxNative)

/-- The bounds check on the signed coordinates (R84). -/
def inRange (c : Config) (x y : Coord) : Bool :=
  decide (0 ≤ x.toInt ∧ x.toInt < c.width ∧ 0 ≤ y.toInt ∧ y.toInt < c.height)

/-- The byte address of an in-range pixel (R41, R85). -/
def addr (c : Config) (x y : Coord) : Nat := y.toNat * c.rowBytes + x.toNat / c.perByte

/-- The field index of an in-range pixel (R41, R85). -/
def fsel (c : Config) (x : Coord) : Nat := x.toNat % c.perByte

/-- How far field `k` sits above bit 0 (R42, R86). -/
def shiftAmount (c : Config) (k : Nat) : Nat := (c.perByte - 1 - k) * c.bpp

/-- The barrel shifter: `q` in field `k` of an otherwise zero byte (R86). -/
def place (c : Config) (q : Byte) (k : Nat) : Byte := q <<< shiftAmount c k

/-- The field mask (R87). -/
def mask (c : Config) (k : Nat) : Byte := place c (BitVec.ofNat 8 c.maxNative) k

/-- The bit-select multiplexer: field `k` of a byte, right-aligned (R88). -/
def extract (c : Config) (b : Byte) (k : Nat) : Byte :=
  (b >>> shiftAmount c k) &&& BitVec.ofNat 8 c.maxNative

/-- The merge: field `k` of a byte replaced by `q` (R89). -/
def insert (c : Config) (b : Byte) (k : Nat) (q : Byte) : Byte := (b &&& ~~~mask c k) ||| place c q k

/-- FILL's byte: `q` in every field (R92). -/
def pattern (c : Config) (q : Byte) : Byte :=
  (List.range c.perByte).foldl (fun b k => b ||| place c q k) 0

end Sys2Proof.Machine
end

