-- ==== Sys2Proof/Machine/Transport.lean ====
section
/-! DEFINITION. Transport events and their transfers on the port (rules R68, R69), the event lists of
INIT_SEQ and of a flush (rules R72, R116), and the event trace read off the transfers (rule R27). -/

namespace Sys2Proof.Machine

/-- A transport event (R68). -/
inductive Event where
  | cmd (b : Byte)
  | data (b : Byte)
  | bulk (bs : List Byte)
deriving DecidableEq, Repr

/-- The transfers of a `Bulk` event: `tx_last` on the final byte only (R69). -/
def bulkTransfers : List Byte → List Transfer
  | [] => []
  | b :: bs => ⟨true, true, bs.isEmpty, b⟩ :: bulkTransfers bs

/-- The byte transfers of an event (R69). -/
def Event.transfers : Event → List Transfer
  | .cmd b => [⟨false, false, false, b⟩]
  | .data b => [⟨true, false, false, b⟩]
  | .bulk bs => bulkTransfers bs

/-- The byte transfers of a list of events, in order (R69). -/
def transfersOf (es : List Event) : List Transfer := es.flatMap Event.transfers

/-- The flattened trace of R69: the pairs `(tx_dc, tx_byte)` in transfer order. -/
def flattened (ts : List Transfer) : List (Bool × Byte) := ts.map fun t => (t.dc, t.byte)

/-- The events a list of transfers carries (R27, R68, R69): a run of `tx_bulk` transfers is one `Bulk`
event, which ends at `tx_last`, at a transfer of another kind, or where the list ends (cut short, R125). -/
def eventsOf : List Transfer → List Event
  | [] => []
  | t :: ts =>
    if t.dc = false then .cmd t.byte :: eventsOf ts
    else if t.bulk = false then .data t.byte :: eventsOf ts
    else if t.last = true then .bulk [t.byte] :: eventsOf ts
    else match eventsOf ts with
      | .bulk bs :: es => .bulk (t.byte :: bs) :: es
      | es => .bulk [t.byte] :: es

/-- The trace `tx` (R27). -/
def State.trace (s : State) : List Event := eventsOf s.wire

/-- `events(INIT_SEQ)` (R72). -/
def initEvents (c : Config) : List Event :=
  c.initSeq.flatMap fun e => .cmd e.1 :: e.2.map .data

/-- `flush_events(S)` for the bytes `S` (R70, R71, R116). -/
def flushEvents (c : Config) (bytes : List Byte) : List Event :=
  [.cmd c.cmdSetCol, .data c.colMin, .data c.colMax,
    .cmd c.cmdSetRow, .data c.rowMin, .data c.rowMax,
    .cmd c.cmdWriteRam, .bulk bytes]

end Sys2Proof.Machine
end

