-- ==== Sys2Proof/Machine/Ops.lean ====
section
/-! DEFINITION. The named operations over the state: `storage` (rules R13, R21, R40), raising an error
(rule R154), command acceptance and completion (rule R144), reset (rule R170), and byte transfers to the
sink (rules R32, R69, R125). -/

namespace Sys2Proof.Machine

/-! ### Storage -/

/-- The byte listed at an address, none where no byte is listed. -/
def lookupCells : List Host.Cell → Nat → Option Byte
  | [], _ => none
  | (k, v) :: rest, a => if k = a then some v else lookupCells rest a

/-- Writing a cell into a rising list. -/
def writeCells : List Host.Cell → Nat → Byte → List Host.Cell
  | [], a, v => [(a, v)]
  | (k, w) :: rest, a, v =>
    if a < k then (a, v) :: (k, w) :: rest
    else if a = k then (a, v) :: rest
    else (k, w) :: writeCells rest a v

/-- The byte written at an address since the last reset, if any. -/
def Memory.lookup (m : Memory) (a : Nat) : Option Byte := lookupCells m.cells a

/-- `storage[a] <- v`. -/
def Memory.write (m : Memory) (a : Nat) (v : Byte) : Memory := ⟨writeCells m.cells a v⟩

/-- `storage[a] <- v` for every `a` below `n`, ascending (R92, R112, log 19). -/
def Memory.fill (m : Memory) (v : Byte) : Nat → Memory
  | 0 => m
  | n + 1 => (m.fill v n).write n v

/-- What an address of `storage` reads as: the byte last written, or the unspecified byte it has held
since the reset (R33, R171, log 3). -/
def State.readByte (s : State) (a : Nat) : Byte := (s.storage.lookup a).getD (Config.freeByte s.epoch a)

/-- The whole of `storage` in ascending address order (R119). -/
def State.streamBytes (s : State) : List Byte := (List.range s.cfg.fbBytes).map s.readByte

/-- The state with `storage` replaced. -/
def State.withStorage (s : State) (m : Memory) : State := { s with storage := m }

/-- `MemRead(a, 1)` (R13), handing the byte on; an address outside `storage` faults (R40, log 18). -/
def memRead (s : State) (a : Nat) (next : Byte → Host.Outcome State Fault Refusal) :
    Host.Outcome State Fault Refusal :=
  if a < s.cfg.fbBytes then next (s.readByte a) else .fault .addressOutsideStorage

/-- `MemWrite(a, 1, v)` (R13); an address outside `storage` faults (R40, log 18). -/
def memWrite (s : State) (a : Nat) (v : Byte) : Host.Outcome State Fault Refusal :=
  if a < s.cfg.fbBytes then .next (s.withStorage (s.storage.write a v))
  else .fault .addressOutsideStorage

/-! ### Configuration, errors, responses -/

/-- A configuration that breaks R7 is refused, whatever is asked of the block (log 7). -/
def configured (s : State) (k : Host.Outcome State Fault Refusal) : Host.Outcome State Fault Refusal :=
  if s.cfg.WellFormed then k else .refused .badConfiguration

/-- `raise F` (R154): the flag is set, nothing further happens, `busy` falls, the sequencer is `IDLE`.
There is no trap entry and no return (R157, R158). -/
def State.raise (e : ErrorFlag) (s : State) : State :=
  { s with status := { s.status.withError e with busy := false }, phase := .idle }

/-- The state with `RESP` written (R94). -/
def State.withResp (s : State) (hit : Bool) (native : Byte) : State := { s with resp := ⟨hit, native⟩ }

/-! ### Command acceptance and completion -/

/-- Acceptance of the word at the command port (R22, R30, R144): the word leaves the host's list, the
latches are loaded, `busy` rises. -/
def State.accept (w : Word) (s : State) : State :=
  { s with
    program := s.program.tail
    opCode := fieldOp w
    opI := fieldI w
    opY := fieldY w
    opX := fieldX w
    status := { s.status with busy := true } }

/-- Completion of the command in progress: `busy` falls (R144). -/
def State.complete (s : State) : State := { s with status := { s.status with busy := false } }

/-- The outcome of a command issued (R144): it completes where the sequencer is `IDLE`, and a command whose
walk is still under way keeps the block busy (R186). -/
def finish : Host.Outcome State Fault Refusal → Host.Outcome State Fault Refusal
  | .next t => .next (if t.phase = .idle then t.complete else t)
  | .fault r => .fault r
  | .refused r => .refused r

/-- The command held in the latches (R22). -/
def State.latched (s : State) : Decoded := decodeFields s.opCode s.opI s.opY s.opX

/-! ### Reset -/

/-- One sample of `rst` is used up by each step (log 14). -/
def State.popRst (s : State) : State := { s with rstIn := s.rstIn.tail }

/-- `rst` is asserted at the coming step (R170). -/
def State.rstAsserted (s : State) : Bool := s.rstIn.head?.getD false

/-- What `rst` does (R33, R170 to R172): the registers take their reset values, a command in progress is
abandoned, every byte of `storage` is unspecified anew, nothing is sent; the history, the inputs and
the configuration stay. A walk cut short leaves the device in an unknown state (R172, log 13). Whether the
platform resets the device along with the block is outside the sources (R172); DESIGN CHOICE: it does not, so
what is known of the device outlives a reset that cuts no walk (log 26). -/
def State.resetBlock (s : State) : State :=
  { s with
    storage := ⟨[]⟩
    opCode := 0
    opI := 0
    opY := 0
    opX := 0
    phase := .idle
    cursor := 0
    status := ⟨false, false, false, false, false⟩
    resp := ⟨false, 0⟩
    deviceStale := s.deviceStale || decide (s.phase ≠ .idle)
    epoch := s.epoch + 1 }

/-! ### Byte transfers -/

/-- The sink's answer to the next byte transfer (R125): only a fallible transport can fail. -/
def State.sinkFails (s : State) : Bool :=
  s.cfg.fallible &&
    match s.failIn with
    | b :: _ => b
    | [] => Config.freeTxFail s.wire.length

/-- One byte transfer: it enters the history, and a fallible transport's answer is used up. -/
def State.transfer (t : Transfer) (s : State) : State :=
  { s with
    wire := s.wire ++ [t]
    failIn := if s.cfg.fallible then s.failIn.tail else s.failIn }

/-- The samples of `tx_ready` left once a byte has been taken: those up to and including the first high one
are used up, all of them where none is high (R32). -/
def samplesAfterByte : List Bool → List Bool
  | [] => []
  | true :: rest => rest
  | false :: rest => samplesAfterByte rest

/-- The samples of `tx_ready` left once `n` bytes have been taken. -/
def samplesAfter : Nat → List Bool → List Bool
  | 0, samples => samples
  | n + 1, samples => samplesAfter n (samplesAfterByte samples)

/-- The wait until the sink takes the byte offered, which it does past the end of the samples if not before
(`readyAfter`, R186, log 9). -/
def State.awaited (s : State) : State := { s with readyIn := samplesAfterByte s.readyIn }

/-- Transfers in order up to and including the first the sink fails (R125), each once the sink has taken it;
the Boolean says that none failed. -/
def transmit : List Transfer → State → State × Bool
  | [], s => (s, true)
  | t :: ts, s => if s.sinkFails then (s.awaited.transfer t, false) else transmit ts (s.awaited.transfer t)

/-- What a failed transfer does to the command (R125, R154): `err_xfer` is raised and the rest of the
command is dropped. The cursor returns to 0 (log 10), and the device is stale (R179, log 13). -/
def State.failTransfer (s : State) : State := State.raise .xfer { s with cursor := 0, deviceStale := true }

/-- The end of a completed flush: the sequencer is `IDLE` with cursor 0 (R121), and the device is no longer
stale (R127). -/
def State.flushDone (s : State) : State := { s with phase := .idle, cursor := 0, deviceStale := false }

/-- The first step of INIT's walk (R121, row `IDLE`). -/
def State.beginInit (s : State) : State :=
  { s with status := { s.status with busy := true }, phase := .initSeq, cursor := 0 }

/-- The first step of a FLUSH's walk (R121, row `IDLE`). -/
def State.beginFlush (s : State) : State :=
  { s with status := { s.status with busy := true }, phase := .fColCmd }

end Sys2Proof.Machine
end

