-- ==== Sys2Proof/Machine/DisplayDriver.lean ====
section
/-! DEFINITION. The commands of the Display Driver in the big-step view: INIT and FLUSH (rules R110 to
R120, R125). The big step is the whole walk, which a sink that takes each byte eventually lets end (R186); with
a sink that need not, the command is begun and goes on byte by byte by the step table of R121 (log 9). -/

namespace Sys2Proof.Machine

/-- The events of a flush, sent (R116): `storage` is read and not written (R55). -/
def flushState (s : State) : State :=
  match transmit (transfersOf (flushEvents s.cfg s.streamBytes)) s with
  | (t, true) => t.flushDone
  | (t, false) => t.failTransfer

/-- INIT's zero-fill, after which `init_done` is set (R112). -/
def zeroFilled (s : State) : State :=
  { s with
    storage := s.storage.fill 0 s.cfg.fbBytes
    status := { s.status with initDone := true } }

/-- INIT's three parts in their order (R112, R174): the sequence, the zero-fill, the flush. A failure in the
sequence ends the command before the zero-fill (R125). -/
def initState (s : State) : State :=
  match transmit (transfersOf (initEvents s.cfg)) s with
  | (t, true) => flushState (zeroFilled t)
  | (t, false) => t.failTransfer

/-- INIT (R112), the same at every issue (R114); begun where the sink may stop taking bytes (R186, log 9). -/
def execInit (s : State) : Host.Outcome State Fault Refusal :=
  configured s <| .next (if s.readyAfter then initState s else s.beginInit)

/-- FLUSH (R115): the whole framebuffer, or `err_noinit` where INIT has not completed; begun where the sink
may stop taking bytes (R186, log 9). -/
def execFlush (s : State) : Host.Outcome State Fault Refusal :=
  configured s <|
    if s.status.initDone then .next (if s.readyAfter then flushState s else s.beginFlush)
    else .next (State.raise .noinit s)

end Sys2Proof.Machine
end

