-- ==== Sys2Proof/Machine/FramebufferStore.lean ====
section
/-! DEFINITION. The commands of the Framebuffer Store: SETPIXEL, FILL, GETPIXEL (rules R83, R90 to R95). -/

namespace Sys2Proof.Machine

/-- SETPIXEL x, y, i (R90): a read-modify-write of one byte, or nothing where the pixel is out of range. -/
def execSetPixel (x y : Coord) (i : Byte) (s : State) : Host.Outcome State Fault Refusal :=
  configured s <|
    if inRange s.cfg x y then
      memRead s (addr s.cfg x y) fun old =>
        memWrite s (addr s.cfg x y) (insert s.cfg old (fsel s.cfg x) (quant s.cfg i))
    else .next s

/-- FILL i (R92): the quantised intensity in every field of every byte. -/
def execFill (i : Byte) (s : State) : Host.Outcome State Fault Refusal :=
  configured s <|
    .next (s.withStorage (s.storage.fill (pattern s.cfg (quant s.cfg i)) s.cfg.fbBytes))

/-- GETPIXEL x, y (R94): the native value of a pixel into `RESP`, or a miss. -/
def execGetPixel (x y : Coord) (s : State) : Host.Outcome State Fault Refusal :=
  configured s <|
    if inRange s.cfg x y then
      memRead s (addr s.cfg x y) fun b => .next (s.withResp true (extract s.cfg b (fsel s.cfg x)))
    else .next (s.withResp false 0)

end Sys2Proof.Machine
end

