-- ==== Sys2Proof/Machine/System.lean ====
section
/-! DEFINITION. NOP and illegal command words (rules R140, R141). -/

namespace Sys2Proof.Machine

/-- NOP (R140). -/
def execNop (s : State) : Host.Outcome State Fault Refusal := configured s <| .next s

/-- An illegal command word (R141): `err_illegal` and nothing else. -/
def illegalWord (s : State) : Host.Outcome State Fault Refusal :=
  configured s <| .next (State.raise .illegal s)

end Sys2Proof.Machine
end

