-- ==== Sys2Proof/Machine/Dispatch.lean ====
section
/-! DEFINITION. One arm for each command: its meaning. -/

namespace Sys2Proof.Machine

def exec (i : Instr) (s : State) : Host.Outcome State Fault Refusal :=
  match i with
  | .nop => Sys2Proof.Machine.execNop s
  | .init => Sys2Proof.Machine.execInit s
  | .setPixel x y v => Sys2Proof.Machine.execSetPixel x y v s
  | .fill v => Sys2Proof.Machine.execFill v s
  | .flush => Sys2Proof.Machine.execFlush s
  | .getPixel x y => Sys2Proof.Machine.execGetPixel x y s

end Sys2Proof.Machine
end

