-- ==== Sys2Proof/Machine/Sequencer.lean ====
section
/-! DEFINITION. One step of the block: the sequencer's step table (rule R121), the transport port it drives
(rules R32, R69), issuing a command in either view (rules R122, R144), and `rst` (rule R170). -/

namespace Sys2Proof.Machine

/-- The transport port (R32): the byte the block offers (`tx_valid = 1`), none where it offers nothing. -/
def State.txOffer (s : State) : Option Transfer :=
  if s.status.busy then
    match s.phase with
    | .idle => none
    | .initSeq => (transfersOf (initEvents s.cfg))[s.cursor]?
    | .zero => none
    | .fColCmd => some ⟨false, false, false, s.cfg.cmdSetCol⟩
    | .fColMin => some ⟨true, false, false, s.cfg.colMin⟩
    | .fColMax => some ⟨true, false, false, s.cfg.colMax⟩
    | .fRowCmd => some ⟨false, false, false, s.cfg.cmdSetRow⟩
    | .fRowMin => some ⟨true, false, false, s.cfg.rowMin⟩
    | .fRowMax => some ⟨true, false, false, s.cfg.rowMax⟩
    | .fWram => some ⟨false, false, false, s.cfg.cmdWriteRam⟩
    | .fStream =>
      if s.cursor < s.cfg.fbBytes then
        some ⟨true, true, decide (s.cursor = s.cfg.fbBytes - 1), s.readByte s.cursor⟩
      else none
  else none

/-- Where the walk stands once the offered byte has been taken (R121). -/
def State.afterByte (s : State) : State :=
  match s.phase with
  | .idle => s
  | .initSeq => { s with cursor := s.cursor + 1 }
  | .zero => s
  | .fColCmd => { s with phase := .fColMin }
  | .fColMin => { s with phase := .fColMax }
  | .fColMax => { s with phase := .fRowCmd }
  | .fRowCmd => { s with phase := .fRowMin }
  | .fRowMin => { s with phase := .fRowMax }
  | .fRowMax => { s with phase := .fWram }
  | .fWram => { s with phase := .fStream, cursor := 0 }
  | .fStream =>
    if s.cursor = s.cfg.fbBytes - 1 then s.flushDone.complete else { s with cursor := s.cursor + 1 }

/-- A byte offered to the sink (R121): the walk waits while `tx_ready` is low, and ends where the sink fails
the transfer (R125). -/
def offerByte (t : Transfer) (s : State) : Host.Outcome State Fault Refusal :=
  let s' := { s with readyIn := s.readyIn.tail }
  if s.readyIn.head?.getD s.readyAfter then
    if s.sinkFails then .next (s'.transfer t).failTransfer else .next (s'.transfer t).afterByte
  else .next s'

/-- The zero-fill's step (R121). -/
def zeroStep (s : State) : Host.Outcome State Fault Refusal :=
  match memWrite s s.cursor 0 with
  | .next t =>
    if t.cursor = t.cfg.fbBytes - 1 then
      .next { t with status := { t.status with initDone := true }, cursor := 0, phase := .fColCmd }
    else .next { t with cursor := t.cursor + 1 }
  | .fault r => .fault r
  | .refused r => .refused r

/-- The first step of INIT and FLUSH (R121, row `IDLE`). The other commands have no walk: they are executed
from the latches by the next step (log 17). -/
def beginCommand (i : Instr) (s : State) : Host.Outcome State Fault Refusal :=
  match i with
  | .init => .next s.beginInit
  | .flush =>
    if s.status.initDone then .next s.beginFlush else .next (State.raise .noinit s)
  | .nop => .next s
  | .setPixel _ _ _ => .next s
  | .fill _ => .next s
  | .getPixel _ _ => .next s

/-- The step of a busy block whose sequencer is `IDLE`: the latched command is executed (R22, log 17). -/
def runLatched (s : State) : Host.Outcome State Fault Refusal :=
  match s.latched with
  | .illegal _ => illegalWord s
  | .legal .init => beginCommand .init s
  | .legal .flush => beginCommand .flush s
  | .legal .nop => finish (exec .nop s)
  | .legal (.setPixel x y i) => finish (exec (.setPixel x y i) s)
  | .legal (.fill i) => finish (exec (.fill i) s)
  | .legal (.getPixel x y) => finish (exec (.getPixel x y) s)

/-- One step of a busy block (R121). -/
def sequencerStep (s : State) : Host.Outcome State Fault Refusal :=
  match s.txOffer with
  | some t => offerByte t s
  | none =>
    match s.phase with
    | .idle => runLatched s
    | .initSeq => .next { s with cursor := 0, phase := .zero }
    | .zero => zeroStep s
    | .fColCmd => .next s
    | .fColMin => .next s
    | .fColMax => .next s
    | .fRowCmd => .next s
    | .fRowMin => .next s
    | .fRowMax => .next s
    | .fWram => .next s
    | .fStream => .fault .addressOutsideStorage

/-- A command word accepted by an idle block (R144): decoded first (R155), then executed whole or begun,
as the view says (R122). -/
def issue (w : Word) (s : State) : Host.Outcome State Fault Refusal :=
  match decode w with
  | .illegal _ => illegalWord (s.accept w)
  | .legal i =>
    match s.view with
    | .bigStep => finish (exec i (s.accept w))
    | .smallStep => beginCommand i (s.accept w)

/-- One step with `rst` deasserted: go on with the command in progress, or accept the word presented, or
stay idle (R144, R164). -/
def runStep (s : State) : Host.Outcome State Fault Refusal :=
  if s.status.busy then sequencerStep s
  else match s.program with
    | [] => .next s
    | w :: _ => issue w s

/-- One step of the machine (R170 before all else). -/
def machineStep (s : State) : Host.Outcome State Fault Refusal :=
  configured s <| if s.rstAsserted then .next s.popRst.resetBlock else runStep s.popRst

/-- The state with a command word presented to an idle block that is not held in reset, in the big-step
view, so that the next step accepts and executes it (log 2). -/
def State.present (s : State) (w : Word) : State :=
  { s with
    program := w :: s.program
    rstIn := []
    phase := .idle
    status := { s.status with busy := false }
    view := .bigStep }

end Sys2Proof.Machine
end

