-- ==== Sys2Proof/Machine/Step.lean ====
section
/-! DEFINITION. The step function, and how a word comes to be the next command. -/

namespace Sys2Proof.Machine

/-- One step of the machine. -/
def step (s : State) : Host.Outcome State Fault Refusal := machineStep s

/-- `s` with the opcode-table word `w` as the command word the next step accepts (log 2). -/
def State.withFetchWord (s : State) (nbits w : Nat) : State := s.present (tableWord nbits w)

end Sys2Proof.Machine
end

