-- ==== Sys2Proof/Machine/Device.lean ====
section
/-! DEFINITION. The display controller behind the sink, as rule R126 describes it: an assumption about the
environment, not part of the block (rules R29, R45, R161). It is computed from the transfers made; whatever
R126 does not describe leaves it unknown (log 12). -/

namespace Sys2Proof.Machine

/-- What the device takes the next data byte for. -/
inductive DeviceMode where
  /-- Nothing R126 describes. -/
  | other
  | colMin
  | colMax
  | rowMin
  | rowMax
  /-- The streaming-data mode after the write-RAM command. -/
  | stream
deriving DecidableEq, Repr

/-- What is known of the device (R126): its window registers, its write cursor as the count of data bytes
taken since the write-RAM command, and the bytes of its RAM, by row and byte of the row, newest first.
What is not recorded is unknown. -/
structure Device where
  mode : DeviceMode
  cmin : Option Byte
  cmax : Option Byte
  rmin : Option Byte
  rmax : Option Byte
  taken : Nat
  ram : List ((Nat × Nat) × Byte)
deriving DecidableEq, Repr

/-- A device of which nothing is known (R127). -/
def Device.unknown : Device := ⟨.other, none, none, none, none, 0, []⟩

/-- The window's width in bytes, `RB` of R126, and its rows; zero where the window is not known. -/
def Device.extent (c : Config) (d : Device) : Nat × Nat :=
  match d.cmin, d.cmax, d.rmin, d.rmax with
  | some cmin, some cmax, some rmin, some rmax =>
    ((cmax.toNat + 1 - cmin.toNat) * c.colBytes, rmax.toNat + 1 - rmin.toNat)
  | _, _, _, _ => (0, 0)

/-- Bytes the window holds. -/
def Device.capacity (c : Config) (d : Device) : Nat := (d.extent c).1 * (d.extent c).2

/-- Where byte `k` of window row `r` lies: the row, and the byte of the row counted from column 0. -/
def Device.place (c : Config) (d : Device) (r k : Nat) : Nat × Nat :=
  ((d.rmin.getD 0).toNat + r, (d.cmin.getD 0).toNat * c.colBytes + k)

/-- What is kept of the device when a command byte arrives. The spec is silent on a command that cuts the
stream short of the window's end, and on one that cuts a set-column or set-row command off before both its
bytes; DESIGN CHOICE: the first leaves the RAM unknown, the second the whole device (log 12). -/
def Device.beforeCommand (c : Config) (d : Device) : Device :=
  match d.mode with
  | .other => d
  | .colMin | .colMax | .rowMin | .rowMax => Device.unknown
  | .stream => if d.taken = d.capacity c then d else { d with ram := [] }

/-- A command byte (R126); any command but the three is not described and leaves the device unknown (U12,
N14). -/
def Device.takeCommand (c : Config) (b : Byte) (d : Device) : Device :=
  let kept := d.beforeCommand c
  if b = c.cmdSetCol then { kept with mode := .colMin }
  else if b = c.cmdSetRow then { kept with mode := .rowMin }
  else if b = c.cmdWriteRam then { kept with mode := .stream, taken := 0 }
  else Device.unknown

/-- A data byte (R126): a window bound, or the byte at the write cursor; data beyond the window or of
another command leaves the device unknown (U12). A bound taken alone counts for nothing if the command is cut
off before the other (`beforeCommand`, log 12). -/
def Device.takeData (c : Config) (b : Byte) (d : Device) : Device :=
  match d.mode with
  | .other => Device.unknown
  | .colMin => { d with cmin := some b, mode := .colMax }
  | .colMax => { d with cmax := some b, mode := .other }
  | .rowMin => { d with rmin := some b, mode := .rowMax }
  | .rowMax => { d with rmax := some b, mode := .other }
  | .stream =>
    if d.taken < d.capacity c then
      { d with
        ram := (d.place c (d.taken / (d.extent c).1) (d.taken % (d.extent c).1), b) :: d.ram
        taken := d.taken + 1 }
    else Device.unknown

/-- One byte transfer, as the device takes it. -/
def Device.take (c : Config) (d : Device) (t : Transfer) : Device :=
  if t.dc then d.takeData c t.byte else d.takeCommand c t.byte

/-- The device after the transfers `ts`. -/
def Device.after (c : Config) (ts : List Transfer) : Device := ts.foldl (Device.take c) Device.unknown

/-- The RAM's byte at a place, newest first, none where it is unknown. -/
def ramByte : List ((Nat × Nat) × Byte) → Nat × Nat → Option Byte
  | [], _ => none
  | (p, b) :: rest, q => if p = q then some b else ramByte rest q

/-- Byte `k` of window row `r` of the device, none where it is unknown (R127). A transfer cut short leaves
the whole window unknown until the next completed FLUSH or INIT (R127, R172, R179). -/
def State.panelByte (s : State) (r k : Nat) : Option Byte :=
  if s.deviceStale then none
  else ramByte (Device.after s.cfg s.wire).ram ((Device.after s.cfg s.wire).place s.cfg r k)

end Sys2Proof.Machine
end

