-- ==== Sys2Proof/Safety.lean ====
section
/-! DEFINITION. The terms claims are stated in: the invariant of a run, runs without error (rule R165),
sequences of commands, and the premises a platform must meet (rules R126, R182). -/

namespace Sys2Proof.Machine

/-- No error flag is set: the host has kept to the contract and the transport has not failed (R165). -/
def State.noError (s : State) : Prop :=
  s.status.errIllegal = false ∧ s.status.errNoinit = false ∧ s.status.errXfer = false

/-- The commands of a list executed in order (R51), stopping where one stops. -/
def execAll : List Instr → State → Host.Outcome State Fault Refusal
  | [], s => .next s
  | i :: rest, s =>
    match exec i s with
    | .next t => execAll rest t
    | .fault r => .fault r
    | .refused r => .refused r

/-- The state with its three error flags replaced. -/
def State.withErrors (illegal noinit xfer : Bool) (s : State) : State :=
  { s with status := { s.status with errIllegal := illegal, errNoinit := noinit, errXfer := xfer } }

/-- The sink's answer to the byte transfer `n` places after the next one (R125): only a fallible transport
fails one. -/
def State.sinkFailsAt (s : State) (n : Nat) : Bool :=
  s.cfg.fallible && (s.failIn[n]?).getD (Config.freeTxFail (s.wire.length + n))

/-- The fields of a word that the command does not use are zero (R65, R75). -/
def unusedZero (w : Word) : Instr → Prop
  | .nop => fieldI w = 0 ∧ fieldY w = 0 ∧ fieldX w = 0
  | .init => fieldI w = 0 ∧ fieldY w = 0 ∧ fieldX w = 0
  | .setPixel _ _ _ => True
  | .fill _ => fieldY w = 0 ∧ fieldX w = 0
  | .flush => fieldI w = 0 ∧ fieldY w = 0 ∧ fieldX w = 0
  | .getPixel _ _ => fieldI w = 0

/-- The phases of a flush (R121). -/
def Phase.flushing : Phase → Bool
  | .idle => false
  | .initSeq => false
  | .zero => false
  | .fColCmd => true
  | .fColMin => true
  | .fColMax => true
  | .fRowCmd => true
  | .fRowMin => true
  | .fRowMax => true
  | .fWram => true
  | .fStream => true

/-- How far the cursor may stand in each phase (R23, R121). -/
def State.cursorInBounds (s : State) : Prop :=
  match s.phase with
  | .initSeq => s.cursor ≤ (transfersOf (initEvents s.cfg)).length
  | .zero => s.cursor < s.cfg.fbBytes
  | .fStream => s.cursor < s.cfg.fbBytes
  | .idle | .fColCmd | .fColMin | .fColMax | .fRowCmd | .fRowMin | .fRowMax | .fWram => s.cursor = 0

/-- What holds of the machine between any two steps, in either view. -/
structure RunInv (s : State) : Prop where
  /-- The configuration has a meaning (R7). -/
  configured : s.cfg.WellFormed
  /-- `storage` is in its canonical form. -/
  canonical : s.storage.wf
  /-- Only addresses of `storage` are listed (R40, R50). -/
  bounded : ∀ p ∈ s.storage.cells, p.1 < s.cfg.fbBytes
  /-- `seq_phase = IDLE` whenever no command is in progress (R23). -/
  freeIsIdle : s.status.busy = false → s.phase = .idle
  /-- A command in progress is a legal one: an illegal word never keeps `busy` (R141, R154). -/
  busyIsLegal : s.status.busy = true → ∃ i, s.latched = .legal i
  /-- `seq_phase = IDLE` whenever no INIT or FLUSH is in progress (R23). -/
  walkIsDriver : s.phase ≠ .idle → s.latched = .legal .init ∨ s.latched = .legal .flush
  /-- The sequence and the zero-fill are INIT's alone (R121). -/
  fillIsInit : s.phase = .initSeq ∨ s.phase = .zero → s.latched = .legal .init
  /-- The cursor stays within what it indexes (R23). -/
  cursor : s.cursorInBounds
  /-- A flush is in progress only once `init_done` is set (R115, R155). -/
  flushAfterInit : s.phase.flushing = true → s.status.initDone = true
  /-- `err_xfer` is hardwired 0 unless the transport is fallible (R24). -/
  hardwired : s.status.errXfer = true → s.cfg.fallible = true
  /-- A miss reports the value 0 (R25). -/
  missIsZero : s.resp.hit = false → s.resp.native = 0
  /-- `resp_native[7:BPP] = 0` always (R94). -/
  nativeFits : s.resp.native.toNat ≤ s.cfg.maxNative
  /-- Once `init_done` is set, every byte of `storage` is specified (R33, R171). -/
  specified : s.status.initDone = true → ∀ a < s.cfg.fbBytes, (s.storage.lookup a).isSome
  /-- The zero-fill has zeroed every address below its cursor (R121). -/
  zeroed : s.phase = .zero → ∀ a < s.cursor, s.storage.lookup a = some 0

end Sys2Proof.Machine

namespace Sys2Proof

/-- The three command bytes differ (not assumed by any rule, R70; a named premise of claims about the
device). -/
def Config.distinctCommands (c : Config) : Prop :=
  c.cmdSetCol ≠ c.cmdSetRow ∧ c.cmdSetCol ≠ c.cmdWriteRam ∧ c.cmdSetRow ≠ c.cmdWriteRam

/-- The device's window holds exactly the framebuffer (R126, R182): `RB = ROW_BYTES`. -/
def Config.windowMatches (c : Config) : Prop :=
  c.colMin.toNat ≤ c.colMax.toNat ∧ (c.colMax.toNat - c.colMin.toNat + 1) * c.colBytes = c.rowBytes

end Sys2Proof
end

