-- ==== Sys2Proof/Certificates/Slice0/Obligations.lean ====
section
/-! DEFINITION. The statements for the provers. Each docstring names the rule it formalises; a clause that
rests on a choice of the model names the log entry. -/

open Sys2Proof Sys2Proof.Machine

/-! ### Configuration, reset, invariant -/

/-- R7: a configuration that breaks one of the conditions is refused; one that meets them all never is. That
every step, `rst` asserted included, and every command refuses it is the model's reading (log 7). -/
def Obligations.OnlyIllFormedConfigurationsRefused : Prop :=
  ∀ s : State,
    (¬ ((s.cfg.bpp = 1 ∨ s.cfg.bpp = 2 ∨ s.cfg.bpp = 4 ∨ s.cfg.bpp = 8) ∧
        s.cfg.width % (8 / s.cfg.bpp) = 0 ∧ 1 ≤ s.cfg.width ∧ 1 ≤ s.cfg.height ∧
        s.cfg.width ≤ 32767 ∧ s.cfg.height ≤ 32767 ∧ s.cfg.height ≤ 256) →
      step s = .refused .badConfiguration ∧ ∀ i, exec i s = .refused .badConfiguration) ∧
    ((s.cfg.bpp = 1 ∨ s.cfg.bpp = 2 ∨ s.cfg.bpp = 4 ∨ s.cfg.bpp = 8) ∧
        s.cfg.width % (8 / s.cfg.bpp) = 0 ∧ 1 ≤ s.cfg.width ∧ 1 ≤ s.cfg.height ∧
        s.cfg.width ≤ 32767 ∧ s.cfg.height ≤ 32767 ∧ s.cfg.height ≤ 256 →
      ∀ r, step s ≠ .refused r ∧ ∀ i, exec i s ≠ .refused r)

/-- R33: the state after reset, for what the rule gives a value. The latches' reset values are the model's
(log 4) and are not claimed; `storage` is ResetLeavesStorageFree's. -/
def Obligations.ResetRegisterValues : Prop :=
  State.reset.statusPort = 0x00 ∧ State.reset.respPort = 0x000 ∧ State.reset.phase = .idle ∧
    State.reset.cursor = 0 ∧ State.reset.cmdReady = true ∧ State.reset.txOffer = none ∧
    State.reset.trace = []

/-- R170, R172: while `rst` is asserted a step gives the control state its reset values, abandons the
command in progress, sends nothing, and leaves what the device holds unknown where it cut a walk
short. -/
def Obligations.ResetInputTakesEffect : Prop :=
  ∀ s : State, s.cfg.WellFormed → s.rstAsserted = true →
    ∃ t, step s = .next t ∧ t.statusPort = 0x00 ∧ t.respPort = 0x000 ∧ t.phase = .idle ∧ t.cursor = 0 ∧
      t.cmdReady = true ∧ t.txOffer = none ∧ t.wire = s.wire ∧
      (s.phase ≠ .idle → ∀ r k, t.panelByte r k = none)

/-- The model's form of 'unspecified' (logs 2, 3, 5): a reset leaves every byte of `storage` a free value,
drawn anew at each reset, whatever was there before, and keeps the configuration and the host's words. -/
def Obligations.ResetLeavesStorageFree : Prop :=
  (∀ a, State.reset.readByte a = Config.freeByte 0 a) ∧
    ∀ s : State, s.cfg.WellFormed → s.rstAsserted = true →
      ∃ t, step s = .next t ∧ t.epoch = s.epoch + 1 ∧
        (∀ a, t.readByte a = Config.freeByte (s.epoch + 1) a) ∧ t.cfg = s.cfg ∧ t.program = s.program

/-- The invariant holds at reset. -/
def Obligations.ResetMeetsInvariant : Prop := RunInv State.reset

/-- Every step keeps the invariant, in either view, with every input. -/
def Obligations.StepKeepsInvariant : Prop := ∀ s t : State, RunInv s → step s = .next t → RunInv t

/-- R50: the bounds check is made before an address is formed, so no command ever presents an address
outside `storage` (which would fault), no step of a run faults, and an out-of-range pixel is dropped in
silence. -/
def Obligations.NoAddressOutsideStorage : Prop :=
  (∀ (c : Config) (x y : Coord), c.WellFormed → inRange c x y = true → addr c x y < c.fbBytes) ∧
    (∀ (i : Instr) (s : State) r, exec i s ≠ .fault r) ∧
    (∀ (s : State) r, RunInv s → step s ≠ .fault r) ∧
    (∀ (s : State) (x y : Coord) (i : Byte), s.cfg.WellFormed → inRange s.cfg x y = false →
      exec (.setPixel x y i) s = .next s)

/-! ### Encoding -/

/-- R60, R75: what the decoder reads from the fields of any word, the word's layout in numbers, and the
operand fields an opcode does not use (R65) do not matter. -/
def Obligations.DecodeReadsTheFields : Prop :=
  ∀ (op rsv : BitVec 4) (i : Byte) (y x : Coord),
    (wordOfFields op rsv i y x).toNat =
        op.toNat * 2 ^ 44 + rsv.toNat * 2 ^ 40 + i.toNat * 2 ^ 32 + y.toNat * 2 ^ 16 + x.toNat ∧
      (rsv ≠ 0 → ∃ why, decode (wordOfFields op rsv i y x) = .illegal why) ∧
      decode (wordOfFields 0 0 i y x) = .legal .nop ∧
      decode (wordOfFields 1 0 i y x) = .legal .init ∧
      decode (wordOfFields 2 0 i y x) = .legal (.setPixel x y i) ∧
      decode (wordOfFields 3 0 i y x) = .legal (.fill i) ∧
      decode (wordOfFields 4 0 i y x) = .legal .flush ∧
      decode (wordOfFields 5 0 i y x) = .legal (.getPixel x y) ∧
      (6 ≤ op.toNat → ∃ why, decode (wordOfFields op 0 i y x) = .illegal why)

/-- R75: decoding an encoded command gives it back, at every value of every operand, and encoding a decoded
word gives the word back exactly where its unused fields are zero. -/
def Obligations.DecodeEncodeRoundTrip : Prop :=
  (∀ i : Instr, decode (encode i) = .legal i) ∧
    ∀ (w : Word) (i : Instr), decode w = .legal i → (encode i = w ↔ unusedZero w i)

/-- R61: a word is an opcode-table row's command exactly where it agrees with the row's `match` under the
mask of `op` and `rsv`; the rows' matches and canonical examples. -/
def Obligations.OpcodeTableRows : Prop :=
  (tableMatch .nop = 0x000000000000 ∧ tableMatch .init = 0x100000000000 ∧
    (∀ x y i, tableMatch (.setPixel x y i) = 0x200000000000) ∧
    (∀ i, tableMatch (.fill i) = 0x300000000000) ∧ tableMatch .flush = 0x400000000000 ∧
    ∀ x y, tableMatch (.getPixel x y) = 0x500000000000) ∧
  (encode .nop = 0x000000000000 ∧ encode .init = 0x100000000000 ∧
    encode (.setPixel 0 0 255) = 0x20FF00000000 ∧ encode (.fill 255) = 0x30FF00000000 ∧
    encode .flush = 0x400000000000 ∧ encode (.getPixel 1 0) = 0x500000000001) ∧
  (∀ (w : Word) (i : Instr), decode w = .legal i → w &&& 0xFF0000000000 = tableMatch i) ∧
    ∀ (w : Word) (j : Instr), w &&& 0xFF0000000000 = tableMatch j →
      ∃ i, decode w = .legal i ∧ tableMatch i = tableMatch j

/-- R66: the legal words are exactly those whose bits 47:40 are one of six values. -/
def Obligations.LegalWordsAreExactlyThese : Prop :=
  ∀ w : Word,
    ((∃ i, decode w = .legal i) ↔
      w.extractLsb' 40 8 ∈ ([0x00, 0x10, 0x20, 0x30, 0x40, 0x50] : List Byte)) ∧
    ((∃ why, decode w = .illegal why) ↔ w.extractLsb' 40 4 ≠ 0#4 ∨ 6 ≤ (w.extractLsb' 44 4).toNat)

/-- Words written out from the spec's encoding (95_test_vectors.md 2.2, 2.3, 2.6). -/
def Obligations.SampleWordsDecode : Prop :=
  decode 0x000000000000 = .legal .nop ∧ decode 0x10ABCDEF0123 = .legal .init ∧
    decode 0x2080003F00FF = .legal (.setPixel 255 63 128) ∧
    decode 0x20FF0000FFFF = .legal (.setPixel (-1) 0 255) ∧
    decode 0x30FF12345678 = .legal (.fill 255) ∧ decode 0x400000000000 = .legal .flush ∧
    decode 0x50FF00000001 = .legal (.getPixel 1 0) ∧
    decode 0x600000000000 = .illegal .reservedOpcode ∧ decode 0x210000000000 = .illegal .reservedField

/-- R73, R74: the assembler refuses exactly the operands outside their ranges, those of SETNATIVE included,
keeps the others' values, and expands CLEAR to `FILL 0` and SETNATIVE to a SETPIXEL whose intensity quantises
to the value named. -/
def Obligations.AssemblerRanges : Prop :=
  ∀ c : Config, c.WellFormed →
    (∀ x y i : Int, -32768 ≤ x ∧ x ≤ 32767 ∧ -32768 ≤ y ∧ y ≤ 32767 ∧ 0 ≤ i ∧ i ≤ 255 →
      ∃ (a b : Coord) (v : Byte), a.toInt = x ∧ b.toInt = y ∧ (v.toNat : Int) = i ∧
        assemble c (.setPixel x y i) = some (.setPixel a b v) ∧ assemble c (.fill i) = some (.fill v) ∧
        assemble c (.getPixel x y) = some (.getPixel a b)) ∧
    (∀ x y i : Int, ¬ (-32768 ≤ x ∧ x ≤ 32767 ∧ -32768 ≤ y ∧ y ≤ 32767 ∧ 0 ≤ i ∧ i ≤ 255) →
      assemble c (.setPixel x y i) = none) ∧
    (∀ i : Int, ¬ (0 ≤ i ∧ i ≤ 255) → assemble c (.fill i) = none) ∧
    (∀ x y : Int, ¬ (-32768 ≤ x ∧ x ≤ 32767 ∧ -32768 ≤ y ∧ y ≤ 32767) →
      assemble c (.getPixel x y) = none) ∧
    (∀ x y q : Int,
      ¬ (-32768 ≤ x ∧ x ≤ 32767 ∧ -32768 ≤ y ∧ y ≤ 32767 ∧ 0 ≤ q ∧ q ≤ c.maxNative) →
      assemble c (.setNative x y q) = none) ∧
    assemble c .nop = some .nop ∧ assemble c .init = some .init ∧ assemble c .flush = some .flush ∧
    assemble c .clear = some (.fill 0) ∧
    ∀ x y q : Int, -32768 ≤ x ∧ x ≤ 32767 ∧ -32768 ≤ y ∧ y ≤ 32767 ∧ 0 ≤ q ∧ q ≤ c.maxNative →
      ∃ (a b : Coord) (v : Byte), a.toInt = x ∧ b.toInt = y ∧ (v.toNat : Int) = q * c.stepSize ∧
        assemble c (.setNative x y q) = some (.setPixel a b v) ∧ ((quant c v).toNat : Int) = q

/-! ### The datapath -/

/-- R8, R9: the derived constants of a well-formed configuration, and their values in the instance. -/
def Obligations.DerivedConstants : Prop :=
  (∀ c : Config, c.WellFormed →
    c.perByte * c.bpp = 8 ∧ c.maxNative = 2 ^ c.bpp - 1 ∧ c.rowBytes * 8 = c.width * c.bpp ∧
      c.fbBytes * 8 = c.height * c.width * c.bpp ∧ c.fbBytes = c.height * c.rowBytes ∧
      c.stepSize * c.maxNative = 255 ∧ c.fbBytes ≤ 2 ^ c.addrWidth ∧
      (∀ w, c.fbBytes ≤ 2 ^ w → c.addrWidth ≤ w) ∧
      c.rowMin.toNat = 0 ∧ c.rowMax.toNat = c.height - 1) ∧
  Config.theInstance.WellFormed ∧ Config.theInstance.perByte = 2 ∧ Config.theInstance.maxNative = 15 ∧
    Config.theInstance.rowBytes = 128 ∧ Config.theInstance.fbBytes = 8192 ∧
    Config.theInstance.addrWidth = 13 ∧ Config.theInstance.stepSize = 17 ∧
    Config.theInstance.colMin = 0x1C ∧ Config.theInstance.colMax = 0x5B ∧
    Config.theInstance.rowMin = 0x00 ∧ Config.theInstance.rowMax = 0x3F

/-- R80, R81: the quantiser's formula and its properties (a) to (f). -/
def Obligations.QuantiserLaws : Prop :=
  (∀ c : Config, c.WellFormed →
    (∀ i : Byte, (quant c i).toNat = i.toNat * c.maxNative / 255 ∧ (quant c i).toNat ≤ c.maxNative ∧
      (quant c i).toNat = i.toNat / c.stepSize) ∧ c.maxNative * c.stepSize = 255 ∧
    (quant c 0).toNat = 0 ∧ (quant c 255).toNat = c.maxNative ∧
    (∀ i j : Byte, i.toNat ≤ j.toNat → (quant c i).toNat ≤ (quant c j).toNat) ∧
    (∀ q : Nat, q ≤ c.maxNative → (quant c (BitVec.ofNat 8 (q * c.stepSize))).toNat = q)) ∧
  ∀ c : Config, c.bpp = 4 →
    quant c 128 = 7 ∧ ∃ rest, ((List.range 256).filter fun i =>
      decide (quant c (BitVec.ofNat 8 i) ≠ BitVec.ofNat 8 i >>> 4)) = [16, 32, 33, 48, 49, 50] ++ rest ∧
        rest.length = 114

/-- R84: the bounds check compares the signed coordinates, which is the same as testing the sign bits and
comparing the other fifteen bits. -/
def Obligations.BoundsCheckIsSigned : Prop :=
  ∀ (c : Config) (x y : Coord), c.WellFormed →
    (inRange c x y = true ↔
      0 ≤ x.toInt ∧ x.toInt < c.width ∧ 0 ≤ y.toInt ∧ y.toInt < c.height) ∧
    (inRange c x y = true ↔
      (x.msb = false ∧ (x.extractLsb' 0 15).toNat < c.width) ∧
        y.msb = false ∧ (y.extractLsb' 0 15).toNat < c.height)

/-- R41, R85: the address and the field of an in-range pixel; different pixels have different places, every
place of `storage` is a pixel's, and `ADDR_W` bits are exactly enough. -/
def Obligations.AddressGeneratorCoversStorageOnce : Prop :=
  ∀ c : Config, c.WellFormed →
    (∀ x y : Coord, inRange c x y = true →
      addr c x y = y.toNat * c.rowBytes + x.toNat / c.perByte ∧ fsel c x = x.toNat % c.perByte ∧
        addr c x y < c.fbBytes ∧ fsel c x < c.perByte) ∧
    (∀ x y x' y' : Coord, inRange c x y = true → inRange c x' y' = true →
      addr c x y = addr c x' y' → fsel c x = fsel c x' → x = x' ∧ y = y') ∧
    (∀ a k : Nat, a < c.fbBytes → k < c.perByte →
      ∃ x y : Coord, inRange c x y = true ∧ addr c x y = a ∧ fsel c x = k) ∧
    c.fbBytes ≤ 2 ^ c.addrWidth ∧ (∀ w, c.fbBytes ≤ 2 ^ w → c.addrWidth ≤ w) ∧
    ((c.width = 256 ∧ c.height = 64 ∧ c.bpp = 4) → ∀ x y : Coord, inRange c x y = true →
      addr c x y = (y.extractLsb' 0 6 ++ x.extractLsb' 1 7).toNat ∧ fsel c x = (x.extractLsb' 0 1).toNat)

/-- R42, R86 to R88: which bits of a byte field `k` is. Field 0 is the most significant, field `k` sits
`(N - 1 - k) · BPP` bits above bit 0, and the shifter, the mask and the multiplexer all use that place. -/
def Obligations.FieldZeroIsMostSignificant : Prop :=
  ∀ c : Config, c.WellFormed →
    (∀ k < 8 / c.bpp,
      (∀ q : Byte, q.toNat < 2 ^ c.bpp →
        (place c q k).toNat = q.toNat * 2 ^ ((8 / c.bpp - 1 - k) * c.bpp)) ∧
      (mask c k).toNat = (2 ^ c.bpp - 1) * 2 ^ ((8 / c.bpp - 1 - k) * c.bpp) ∧
      ∀ b : Byte, (extract c b k).toNat = b.toNat / 2 ^ ((8 / c.bpp - 1 - k) * c.bpp) % 2 ^ c.bpp ∧
        ∀ j < c.bpp, (extract c b k).getLsbD j = b.getLsbD (8 - (k + 1) * c.bpp + j)) ∧
    (∀ b : Byte, (extract c b 0).toNat = b.toNat / 2 ^ (8 - c.bpp) ∧
      (extract c b (8 / c.bpp - 1)).toNat = b.toNat % 2 ^ c.bpp) ∧
    (c.bpp = 8 → mask c 0 = 0xFF) ∧
    (c.bpp = 4 → mask c 0 = 0xF0 ∧ mask c 1 = 0x0F) ∧
    (c.bpp = 2 → mask c 0 = 0xC0 ∧ mask c 1 = 0x30 ∧ mask c 2 = 0x0C ∧ mask c 3 = 0x03) ∧
    (c.bpp = 1 → ∀ k < 8, mask c k = (0x80 : Byte) >>> k)

/-- R87, R89: the masks are disjoint and cover the byte, and the five laws of merge and extract. -/
def Obligations.FieldMergeLaws : Prop :=
  ∀ c : Config, c.WellFormed →
    (∀ j k : Nat, j < c.perByte → k < c.perByte → j ≠ k → mask c j &&& mask c k = 0) ∧
    (List.range c.perByte).foldl (fun m k => m ||| mask c k) 0 = 0xFF ∧
    (∀ (b q : Byte) (k : Nat), insert c b k q = (b &&& ~~~ mask c k) ||| place c q k) ∧
    ∀ (b q r : Byte) (j k : Nat), q.toNat ≤ c.maxNative → r.toNat ≤ c.maxNative → j < c.perByte →
      k < c.perByte →
      extract c (insert c b k q) k = q ∧ insert c (insert c b k q) k r = insert c b k r ∧
        insert c b k (extract c b k) = b ∧
        (j ≠ k → extract c (insert c b k q) j = extract c b j ∧
          insert c (insert c b k q) j r = insert c (insert c b j r) k q)

/-! ### The commands -/

/-- R140: NOP changes nothing. -/
def Obligations.NopChangesNothing : Prop :=
  ∀ s : State, s.cfg.WellFormed → exec .nop s = .next s

/-- R90: SETPIXEL in range replaces one field of one byte; out of range it changes nothing. -/
def Obligations.SetPixelResult : Prop :=
  ∀ (s : State) (x y : Coord) (i : Byte), s.cfg.WellFormed →
    (inRange s.cfg x y = true →
      exec (.setPixel x y i) s = .next (s.withStorage (s.storage.write (addr s.cfg x y)
        (insert s.cfg (s.readByte (addr s.cfg x y)) (fsel s.cfg x) (quant s.cfg i))))) ∧
    (inRange s.cfg x y = false → exec (.setPixel x y i) s = .next s)

/-- R91 (a): after SETPIXEL in range the pixel's field reads as the quantised intensity, the byte's other
fields and every other byte read as before, and nothing but `storage` has changed. -/
def Obligations.SetPixelFieldAndFrame : Prop :=
  ∀ (s : State) (x y : Coord) (i : Byte), s.cfg.WellFormed → inRange s.cfg x y = true →
    ∃ t, exec (.setPixel x y i) s = .next t ∧
      extract s.cfg (t.readByte (addr s.cfg x y)) (fsel s.cfg x) = quant s.cfg i ∧
      (∀ k < s.cfg.perByte, k ≠ fsel s.cfg x →
        extract s.cfg (t.readByte (addr s.cfg x y)) k =
          extract s.cfg (s.readByte (addr s.cfg x y)) k) ∧
      (∀ a, a ≠ addr s.cfg x y → t.readByte a = s.readByte a) ∧
      t = s.withStorage t.storage

/-- R91 (c), (d): SETPIXEL is idempotent, the later of two on one pixel wins, and two on different pixels
commute, whether or not they share a byte and whether or not they are in range. -/
def Obligations.SetPixelIdempotentCommutative : Prop :=
  ∀ (s : State) (x y x' y' : Coord) (i j : Byte), s.cfg.WellFormed → s.storage.wf →
    ∃ t, exec (.setPixel x y i) s = .next t ∧ execAll [.setPixel x y i, .setPixel x y i] s = .next t ∧
      execAll [.setPixel x y j, .setPixel x y i] s = .next t ∧
      ((x, y) ≠ (x', y') →
        ∃ u, execAll [.setPixel x y i, .setPixel x' y' j] s = .next u ∧
          execAll [.setPixel x' y' j, .setPixel x y i] s = .next u)

/-- R92: FILL writes the quantised intensity into every field of every byte and changes nothing else. -/
def Obligations.FillResult : Prop :=
  ∀ (s : State) (i : Byte), s.cfg.WellFormed →
    ∃ t, exec (.fill i) s = .next t ∧ t = s.withStorage t.storage ∧
      (∀ a < s.cfg.fbBytes, t.readByte a = pattern s.cfg (quant s.cfg i)) ∧
      (∀ a, s.cfg.fbBytes ≤ a → t.readByte a = s.readByte a) ∧
      (∀ k < s.cfg.perByte, extract s.cfg (pattern s.cfg (quant s.cfg i)) k = quant s.cfg i) ∧
      (s.cfg.bpp = 8 → pattern s.cfg (quant s.cfg i) = quant s.cfg i) ∧
      (s.cfg.bpp = 4 → pattern s.cfg (quant s.cfg i) = quant s.cfg i * 0x11) ∧
      (s.cfg.bpp = 2 → pattern s.cfg (quant s.cfg i) = quant s.cfg i * 0x55) ∧
      (s.cfg.bpp = 1 → pattern s.cfg (quant s.cfg i) = quant s.cfg i * 0xFF) ∧
      (i = 0 → pattern s.cfg (quant s.cfg i) = 0x00) ∧ (i = 255 → pattern s.cfg (quant s.cfg i) = 0xFF)

/-- R93: FILL leaves `storage` exactly as SETPIXELs of the same intensity to a list of pixels that holds
every in-range one, in any order, leave it. -/
def Obligations.FillIsSetPixelEverywhere : Prop :=
  ∀ (s : State) (i : Byte) (pixels : List (Coord × Coord)), s.cfg.WellFormed → s.storage.wf →
    (∀ x y : Coord, inRange s.cfg x y = true → (x, y) ∈ pixels) →
    ∃ t, exec (.fill i) s = .next t ∧ execAll (pixels.map fun p => .setPixel p.1 p.2 i) s = .next t

/-- R94: GETPIXEL reads a field into `RESP`, or reports a miss; it changes nothing else, and the bits above
the native value are zero. -/
def Obligations.GetPixelResult : Prop :=
  ∀ (s : State) (x y : Coord), s.cfg.WellFormed →
    (inRange s.cfg x y = true → ∃ t, exec (.getPixel x y) s = .next t ∧
      t = s.withResp true (extract s.cfg (s.readByte (addr s.cfg x y)) (fsel s.cfg x)) ∧
      t.respPort = 1#1 ++ extract s.cfg (s.readByte (addr s.cfg x y)) (fsel s.cfg x) ∧
      t.resp.native.toNat < 2 ^ s.cfg.bpp ∧ ∀ a, t.readByte a = s.readByte a) ∧
    (inRange s.cfg x y = false → ∃ t, exec (.getPixel x y) s = .next t ∧ t = s.withResp false 0 ∧
      t.respPort = 0x000 ∧ ∀ a, t.readByte a = s.readByte a)

/-- R95: SETPIXEL, then any commands but INIT, FILL and a SETPIXEL of the same pixel, then GETPIXEL: the
quantised intensity is read back, also where the sink fails transfers. A FLUSH among them needs a sink that
takes each byte eventually (R186, log 9), since the block hangs without. -/
def Obligations.ReadBackAfterOtherCommands : Prop :=
  ∀ (s : State) (x y : Coord) (i : Byte) (others : List Instr), s.cfg.WellFormed →
    inRange s.cfg x y = true →
    (∀ j ∈ others, j ≠ .init ∧ (∀ v, j ≠ .fill v) ∧ (∀ v, j ≠ .setPixel x y v) ∧
      (j = .flush → s.readyAfter = true)) →
    ∃ t, execAll (.setPixel x y i :: others ++ [.getPixel x y]) s = .next t ∧
      t.resp = ⟨true, quant s.cfg i⟩

/-- R112, R114: INIT, at every issue, sends the sequence, zero-fills `storage`, sets `init_done` and flushes
the zeros, and changes nothing else, with a transport that does not fail and takes each byte eventually
(R186, log 9). -/
def Obligations.InitResult : Prop :=
  ∀ s : State, s.cfg.WellFormed → s.cfg.fallible = false → s.readyAfter = true →
    ∃ t, exec .init s = .next t ∧
      t = { s with
        storage := t.storage
        status := { s.status with initDone := true }
        wire := s.wire ++ transfersOf (initEvents s.cfg ++
          flushEvents s.cfg (List.replicate s.cfg.fbBytes 0))
        readyIn := samplesAfter
          ((transfersOf (initEvents s.cfg)).length + (7 + s.cfg.fbBytes)) s.readyIn
        phase := .idle
        cursor := 0
        deviceStale := false } ∧
      (∀ a < s.cfg.fbBytes, t.readByte a = 0) ∧ (∀ a, s.cfg.fbBytes ≤ a → t.readByte a = s.readByte a) ∧
      ∀ x y : Coord, inRange s.cfg x y = true →
        extract s.cfg (t.readByte (addr s.cfg x y)) (fsel s.cfg x) = 0

/-- R115: FLUSH with `init_done` sends the eight events of the framebuffer as it stands and writes nothing
of `storage`, with a transport that does not fail and takes each byte eventually (R186, log 9); without
`init_done`, whatever the transport, `err_noinit` is raised, nothing is sent and `storage` stays. -/
def Obligations.FlushResult : Prop :=
  ∀ s : State, s.cfg.WellFormed →
    (s.cfg.fallible = false → s.readyAfter = true → s.status.initDone = true → exec .flush s = .next { s with
      wire := s.wire ++ transfersOf (flushEvents s.cfg ((List.range s.cfg.fbBytes).map s.readByte))
      readyIn := samplesAfter (7 + s.cfg.fbBytes) s.readyIn
      phase := .idle
      cursor := 0
      deviceStale := false }) ∧
    (s.status.initDone = false → exec .flush s = .next { s with
      status := { s.status with errNoinit := true, busy := false }
      phase := .idle })

/-- R116: the flush is `7 + FB_BYTES` byte transfers, the three command bytes first, fourth and seventh, then
every byte of `storage` in ascending order as one bulk transfer that ends at its last byte. -/
def Obligations.FlushOnTheWire : Prop :=
  ∀ s : State, s.cfg.WellFormed →
    flushEvents s.cfg s.streamBytes =
      [.cmd s.cfg.cmdSetCol, .data s.cfg.colMin, .data s.cfg.colMax, .cmd s.cfg.cmdSetRow, .data 0,
        .data (BitVec.ofNat 8 (s.cfg.height - 1)), .cmd s.cfg.cmdWriteRam, .bulk s.streamBytes] ∧
    s.streamBytes.length = s.cfg.fbBytes ∧
    (transfersOf (flushEvents s.cfg s.streamBytes)).length = 7 + s.cfg.fbBytes ∧
    (∀ n t, (transfersOf (flushEvents s.cfg s.streamBytes))[n]? = some t →
      (t.dc = false ↔ n = 0 ∨ n = 3 ∨ n = 6) ∧ (t.bulk = true ↔ 7 ≤ n) ∧
        (t.last = true ↔ n = 6 + s.cfg.fbBytes)) ∧
    ∀ a < s.cfg.fbBytes, s.streamBytes[a]? = some (s.readByte a) ∧
      ((transfersOf (flushEvents s.cfg s.streamBytes))[7 + a]?).map Transfer.byte = some (s.readByte a)

/-- R69: the byte transfers of each kind of event, and the flattened trace of a list of transfers. -/
def Obligations.EventTransfers : Prop :=
  (∀ b, (Event.cmd b).transfers = [⟨false, false, false, b⟩]) ∧
    (∀ b, (Event.data b).transfers = [⟨true, false, false, b⟩]) ∧
    (∀ bs n t, (Event.bulk bs).transfers[n]? = some t ↔
      ∃ b, bs[n]? = some b ∧ t.dc = true ∧ t.bulk = true ∧ (t.last = true ↔ n + 1 = bs.length) ∧
        t.byte = b) ∧
    (∀ bs, (Event.bulk bs).transfers.length = bs.length) ∧
    ∀ (es : List Event), flattened (transfersOf es) = es.flatMap fun e =>
      match e with
      | .cmd b => [(false, b)]
      | .data b => [(true, b)]
      | .bulk bs => bs.map fun b => (true, b)

/-- R72, R111: what INIT sends before its flush. The events of the sequence are, entry by entry in the list's
order, the command and then each of its data bytes, none skipped and none added; their transfers carry them
one for one; and with a transport that does not fail and takes each byte eventually (log 9) those transfers are
what INIT sends first, ahead of every transfer of the flush. -/
def Obligations.InitSequenceOnTheWire : Prop :=
  (∀ c : Config, c.initSeq = [] → initEvents c = []) ∧
    (∀ (c : Config) (b : Byte) (ds : List Byte) (rest : List (Byte × List Byte)), c.initSeq = (b, ds) :: rest →
      initEvents c = Event.cmd b :: ds.map Event.data ++ initEvents { c with initSeq := rest } ∧
      transfersOf (initEvents c) = ⟨false, false, false, b⟩ :: ds.map (fun d => ⟨true, false, false, d⟩) ++
        transfersOf (initEvents { c with initSeq := rest })) ∧
    (∀ c : Config, (transfersOf (initEvents c)).length = (c.initSeq.map fun e => 1 + e.2.length).sum) ∧
    ∀ s : State, s.cfg.WellFormed → s.cfg.fallible = false → s.readyAfter = true →
      ∃ t, exec .init s = .next t ∧ t.wire = s.wire ++
        (s.cfg.initSeq.flatMap fun e => (⟨false, false, false, e.1⟩ : Transfer) ::
          e.2.map fun d => ⟨true, false, false, d⟩) ++
        transfersOf (flushEvents s.cfg (List.replicate s.cfg.fbBytes 0))

/-- R27, R68, R69: the events are read back from their transfers, whatever was sent before. -/
def Obligations.EventsReadOffTheWire : Prop :=
  ∀ (ts : List Transfer) (es : List Event), (∀ bs, Event.bulk bs ∈ es → bs ≠ []) →
    (∀ bs, es.head? ≠ some (Event.bulk bs)) → eventsOf (ts ++ transfersOf es) = eventsOf ts ++ es

/-- R112, R116, R122: the trace grows by the command's event list, where the transport does not fail and takes
each byte eventually (log 9), and by nothing where FLUSH is not allowed, whatever the transport. -/
def Obligations.TraceGrowsByTheEventList : Prop :=
  ∀ s : State, s.cfg.WellFormed →
    (s.cfg.fallible = false → s.readyAfter = true → ∃ t, exec .init s = .next t ∧ t.trace = s.trace ++ initEvents s.cfg ++
      flushEvents s.cfg (List.replicate s.cfg.fbBytes 0)) ∧
    (s.cfg.fallible = false → s.readyAfter = true → s.status.initDone = true →
      ∃ t, exec .flush s = .next t ∧ t.trace = s.trace ++ flushEvents s.cfg s.streamBytes) ∧
    (s.status.initDone = false → ∃ t, exec .flush s = .next t ∧ t.trace = s.trace)

/-- R125: where the sink fails a transfer of a flush, the command ends after the failed byte with `err_xfer`;
`storage` and `init_done` stay, and what the device holds is unknown. -/
def Obligations.FailedFlushStops : Prop :=
  ∀ (s : State) (k : Nat) (rest : List Bool), s.cfg.WellFormed → s.cfg.fallible = true →
    s.readyAfter = true → s.status.initDone = true → s.failIn = List.replicate k false ++ true :: rest →
    k < 7 + s.cfg.fbBytes →
    ∃ t, exec .flush s = .next t ∧ t.storage = s.storage ∧ t.resp = s.resp ∧
      t.wire = s.wire ++ (transfersOf (flushEvents s.cfg s.streamBytes)).take (k + 1) ∧
      t.status = { s.status with errXfer := true, busy := false } ∧ t.phase = .idle ∧ t.failIn = rest ∧
      ∀ r c, t.panelByte r c = none

/-- R125: where the sink fails a transfer of INIT, the command ends after the failed byte with `err_xfer`:
in the sequence `storage` and `init_done` are as before, in the flush `storage` is zero and `init_done`
is set. -/
def Obligations.FailedInitStops : Prop :=
  ∀ (s : State) (k : Nat) (rest : List Bool), s.cfg.WellFormed → s.cfg.fallible = true →
    s.readyAfter = true → s.failIn = List.replicate k false ++ true :: rest →
    (k < (transfersOf (initEvents s.cfg)).length →
      ∃ t, exec .init s = .next t ∧ t.storage = s.storage ∧ t.resp = s.resp ∧
        t.wire = s.wire ++ (transfersOf (initEvents s.cfg)).take (k + 1) ∧
        t.status = { s.status with errXfer := true, busy := false } ∧ t.phase = .idle ∧
        ∀ r c, t.panelByte r c = none) ∧
    ((transfersOf (initEvents s.cfg)).length ≤ k →
      k < (transfersOf (initEvents s.cfg)).length + (7 + s.cfg.fbBytes) →
      ∃ t, exec .init s = .next t ∧ (∀ a < s.cfg.fbBytes, t.readByte a = 0) ∧ t.resp = s.resp ∧
        t.wire = s.wire ++ (transfersOf (initEvents s.cfg ++
          flushEvents s.cfg (List.replicate s.cfg.fbBytes 0))).take (k + 1) ∧
        t.status = { s.status with initDone := true, errXfer := true, busy := false } ∧
        t.phase = .idle ∧ ∀ r c, t.panelByte r c = none)

/-- R125: a fallible transport that accepts every transfer gives what an infallible one gives, and INIT and
FLUSH complete. -/
def Obligations.AcceptedTransfersComplete : Prop :=
  ∀ (s : State) (rest : List Bool), s.cfg.WellFormed → s.cfg.fallible = true → s.readyAfter = true →
    (s.failIn = List.replicate
        ((transfersOf (initEvents s.cfg)).length + (7 + s.cfg.fbBytes)) false ++ rest →
      ∃ t, exec .init s = .next t ∧ (∀ a < s.cfg.fbBytes, t.readByte a = 0) ∧ t.resp = s.resp ∧
        t.wire = s.wire ++ transfersOf (initEvents s.cfg ++
          flushEvents s.cfg (List.replicate s.cfg.fbBytes 0)) ∧
        t.status = { s.status with initDone := true } ∧ t.failIn = rest) ∧
    (s.failIn = List.replicate (7 + s.cfg.fbBytes) false ++ rest → s.status.initDone = true →
      ∃ t, exec .flush s = .next t ∧ t.storage = s.storage ∧ t.resp = s.resp ∧
        t.wire = s.wire ++ transfersOf (flushEvents s.cfg s.streamBytes) ∧ t.status = s.status ∧
        t.failIn = rest)

/-- R186: every command issued to an idle sequencer completes, whatever its operands, the flags and the
answers of a fallible sink; of INIT and FLUSH this needs a sink that takes each byte eventually, which in the
model is `readyAfter` (log 9). -/
def Obligations.EveryCommandCompletes : Prop :=
  ∀ (i : Instr) (s : State), s.cfg.WellFormed → s.phase = .idle →
    (i = .init ∨ i = .flush → s.readyAfter = true) →
    ∃ t, exec i s = .next t ∧ t.phase = .idle ∧ finish (exec i s) = .next t.complete

/-- R186, U13: a sink that never takes a byte hangs an INIT, and a FLUSH with `init_done`, in either view: from
some step on the block stays in one state for ever, busy, with a byte offered, nothing sent, and the later
words not accepted. -/
def Obligations.DeadSinkHangsInitAndFlush : Prop :=
  ∀ (s : State) (w : Word) (rest : List Word), s.cfg.WellFormed → s.rstIn = [] → s.readyIn = [] →
    s.readyAfter = false → s.status.busy = false → s.phase = .idle → s.program = w :: rest →
    (decode w = .legal .init ∨ decode w = .legal .flush ∧ s.status.initDone = true) →
    ∃ k, ∃ t : State, Sys2Proof.core.run k s = .next t ∧ step t = .next t ∧
      (∀ n, Sys2Proof.core.run (k + n) s = .next t) ∧ t.status.busy = true ∧ t.cmdReady = false ∧
      (∃ b, t.txOffer = some b) ∧ t.wire = s.wire ∧ t.program = rest

/-! ### Frames -/

/-- R34, R55: the bytes a command may change: one for SETPIXEL, those of `storage` for FILL and INIT, none
for the others. -/
def Obligations.StoredBytesFrame : Prop :=
  ∀ (s t : State),
    (∀ i, i = Instr.nop ∨ i = .flush ∨ (∃ x y, i = .getPixel x y) → exec i s = .next t →
      ∀ a, t.readByte a = s.readByte a) ∧
    (∀ x y v, exec (.setPixel x y v) s = .next t →
      (inRange s.cfg x y = false → ∀ a, t.readByte a = s.readByte a) ∧
      ∀ a, a ≠ addr s.cfg x y → t.readByte a = s.readByte a) ∧
    ∀ i, i = Instr.init ∨ (∃ v, i = .fill v) → exec i s = .next t →
      ∀ a, s.cfg.fbBytes ≤ a → t.readByte a = s.readByte a

/-- R24, R25, R34, R110: only INIT and FLUSH send and only they touch the sequencer and `STATUS`; only
GETPIXEL writes `RESP`; only SETPIXEL, FILL and INIT write `storage`; no command writes the latches, the
configuration, the host's words, or the inputs but the samples and answers of the sink that are used up. -/
def Obligations.WhoWritesWhat : Prop :=
  ∀ (i : Instr) (s t : State), exec i s = .next t →
    (t.cfg = s.cfg ∧ t.opCode = s.opCode ∧ t.opI = s.opI ∧ t.opY = s.opY ∧ t.opX = s.opX ∧
      t.program = s.program ∧ t.rstIn = s.rstIn ∧ t.readyAfter = s.readyAfter ∧ t.epoch = s.epoch ∧
      t.view = s.view) ∧
    (i ≠ .init → i ≠ .flush → t.wire = s.wire ∧ t.readyIn = s.readyIn ∧ t.failIn = s.failIn ∧
      t.deviceStale = s.deviceStale ∧
      t.status = s.status ∧ t.phase = s.phase ∧ t.cursor = s.cursor) ∧
    (i ≠ .init → (∀ v, i ≠ .fill v) → (∀ x y v, i ≠ .setPixel x y v) → t.storage = s.storage) ∧
    ((∀ x y, i ≠ .getPixel x y) → t.resp = s.resp) ∧
    t.status.errIllegal = s.status.errIllegal ∧ (i ≠ .flush → t.status.errNoinit = s.status.errNoinit) ∧
    (i ≠ .init → t.status.initDone = s.status.initDone) ∧ (∃ more, t.wire = s.wire ++ more)

/-- R24, R154, R158: with `rst` deasserted a step never clears an error flag or `init_done`. -/
def Obligations.FlagsAreSticky : Prop :=
  ∀ s t : State, step s = .next t → s.rstAsserted = false →
    (s.status.errIllegal = true → t.status.errIllegal = true) ∧
    (s.status.errNoinit = true → t.status.errNoinit = true) ∧
    (s.status.errXfer = true → t.status.errXfer = true) ∧
    (s.status.initDone = true → t.status.initDone = true)

/-- R24, R154: no step reads an error flag: with other flags set it goes the same way and differs in those
flags only. -/
def Obligations.ErrorFlagsAreNotRead : Prop :=
  ∀ (s t : State) (a b c : Bool), step s = .next t →
    ∃ a' b' c', step (s.withErrors a b c) = .next (t.withErrors a' b' c')

/-- R154: raising an error sets its flag (R153 gives the bit), clears `busy`, leaves the sequencer idle and
the block ready for a command, and does nothing else; raising it again changes nothing. `err_xfer` has
no bit to set where the transport is infallible (R24). -/
def Obligations.RaiseSetsOneFlag : Prop :=
  ∀ (s : State) (e : ErrorFlag), (e = .xfer → s.cfg.fallible = true) →
    (s.raise e).statusPort.getLsbD e.bit = true ∧ (s.raise e).statusPort.getLsbD 1 = false ∧
      (∀ n, n ≠ 1 → n ≠ e.bit → (s.raise e).statusPort.getLsbD n = s.statusPort.getLsbD n) ∧
      (s.raise e).cmdReady = true ∧ (s.raise e).raise e = s.raise e ∧
      s.raise e = { s with status := (s.raise e).status, phase := .idle }

/-- R153, R155: the only causes of the three errors, in a run: an illegal word accepted; a FLUSH without
`init_done`; a byte transfer of an INIT, or of a FLUSH with `init_done`, that the sink of a fallible transport
fails, the first it fails and the last one made; and a step raises at most one. -/
def Obligations.ErrorsHaveTheirCause : Prop :=
  ∀ s t : State, RunInv s → s.rstAsserted = false → step s = .next t →
    (s.status.errIllegal = false → t.status.errIllegal = true →
      s.status.busy = false ∧ ∃ w rest why, s.program = w :: rest ∧ decode w = .illegal why) ∧
    (s.status.errNoinit = false → t.status.errNoinit = true →
      s.status.initDone = false ∧
        ((s.status.busy = false ∧ ∃ w rest, s.program = w :: rest ∧ decode w = .legal .flush) ∨
          (s.status.busy = true ∧ s.latched = .legal .flush))) ∧
    (s.status.errXfer = false → t.status.errXfer = true →
      s.cfg.fallible = true ∧
        ∃ n, s.sinkFailsAt n = true ∧ (∀ m < n, s.sinkFailsAt m = false) ∧
          t.wire.length = s.wire.length + n + 1 ∧
          ((s.status.busy = true ∧ n = 0 ∧ (∃ b, s.txOffer = some b ∧ t.wire = s.wire ++ [b]) ∧
              (s.latched = .legal .init ∨ s.latched = .legal .flush ∧ s.status.initDone = true)) ∨
            (s.status.busy = false ∧ s.view = .bigStep ∧ ∃ w rest, s.program = w :: rest ∧
              ((decode w = .legal .flush ∧ s.status.initDone = true ∧ n < 7 + s.cfg.fbBytes) ∨
                (decode w = .legal .init ∧
                  n < (transfersOf (initEvents s.cfg)).length + (7 + s.cfg.fbBytes)))))) ∧
    (t.status.errIllegal ≠ s.status.errIllegal → t.status.errNoinit = s.status.errNoinit ∧
      t.status.errXfer = s.status.errXfer) ∧
    (t.status.errNoinit ≠ s.status.errNoinit → t.status.errXfer = s.status.errXfer)

/-- R24, R25: the bits of the two registers as the host reads them. -/
def Obligations.StatusAndRespBits : Prop :=
  ∀ s : State,
    s.statusPort.getLsbD 0 = s.status.initDone ∧ s.statusPort.getLsbD 1 = s.status.busy ∧
      s.statusPort.getLsbD 2 = s.status.errIllegal ∧ s.statusPort.getLsbD 3 = s.status.errNoinit ∧
      s.statusPort.getLsbD 4 = (s.status.errXfer && s.cfg.fallible) ∧
      s.statusPort.getLsbD 5 = false ∧ s.statusPort.getLsbD 6 = false ∧ s.statusPort.getLsbD 7 = false ∧
      s.respPort.getLsbD 8 = s.resp.hit ∧ s.respPort.extractLsb' 0 8 = s.resp.native

/-! ### The step -/

/-- A step of an idle block accepts the word presented and runs the command it decodes to: the latches are
loaded, `busy` rises, the command runs, and `busy` falls where the command has completed (R30, R144, R186,
big-step view). The word that `withFetchWord` places is the one accepted. -/
def Obligations.StepRunsDecodedCommand : Prop :=
  (∀ (s : State) (w : Word) (rest : List Word) (i : Instr), s.cfg.WellFormed → s.rstAsserted = false →
    s.status.busy = false → s.view = .bigStep → s.program = w :: rest → decode w = .legal i →
    step s = finish (exec i (s.popRst.accept w)) ∧
      ∀ t, exec i (s.popRst.accept w) = .next t →
        (t.phase = .idle → step s = .next t.complete) ∧ (t.phase ≠ .idle → step s = .next t)) ∧
  ∀ (s : State) (nbits w : Nat) (i : Instr), s.cfg.WellFormed → decodeTableWord nbits w = some i →
    step (s.withFetchWord nbits w) = finish (exec i ((s.withFetchWord nbits w).accept (tableWord nbits w)))

/-- R144: a word is accepted only when `busy = 0`; acceptance raises `busy` and loads the latches from the
word; a word presented to a busy block waits and is not lost; completion clears `busy`. That an illegal word
loads the latches too is log 21; that NOP, SETPIXEL, FILL and GETPIXEL stay busy after the small step of their
acceptance is log 17; that a big step ends is a matter of the sink (log 9). -/
def Obligations.CommandAcceptance : Prop :=
  ∀ s : State, s.cfg.WellFormed → s.rstAsserted = false →
    s.cmdReady = !s.status.busy ∧
    (s.status.busy = true → ∀ t, step s = .next t → t.program = s.program ∧ t.opCode = s.opCode ∧
      t.opI = s.opI ∧ t.opY = s.opY ∧ t.opX = s.opX) ∧
    ∀ w rest, s.status.busy = false → s.program = w :: rest →
      ∃ t, step s = .next t ∧ t.program = rest ∧ t.opCode = w.extractLsb' 44 4 ∧
        t.opI = w.extractLsb' 32 8 ∧ t.opY = w.extractLsb' 16 16 ∧ t.opX = w.extractLsb' 0 16 ∧
        (s.view = .bigStep → s.phase = .idle → s.readyAfter = true → t.status.busy = false) ∧
        (s.view = .smallStep → ∀ i, decode w = .legal i → (i = .flush → s.status.initDone = true) →
          t.status.busy = true)

/-- R141: an illegal word is accepted, sets `err_illegal`, and does nothing else, in either view. -/
def Obligations.IllegalWordSetsItsFlagOnly : Prop :=
  ∀ (s : State) (w : Word) (rest : List Word), s.cfg.WellFormed → s.rstAsserted = false →
    s.status.busy = false → s.program = w :: rest →
    (fieldRsv w ≠ 0 ∨ 6 ≤ (fieldOp w).toNat) →
    step s = .next { s with
      program := rest
      rstIn := s.rstIn.tail
      opCode := fieldOp w
      opI := fieldI w
      opY := fieldY w
      opX := fieldX w
      status := { s.status with errIllegal := true, busy := false }
      phase := .idle }

/-- An idle block with no word presented, and a busy block whose byte the sink does not take, stay as they
are; a sink that takes no byte any more hangs the block (R32, R164, R186). -/
def Obligations.IdleAndStalledStepsWait : Prop :=
  ∀ s : State, s.cfg.WellFormed → s.rstIn = [] →
    (s.status.busy = false → s.program = [] → step s = .next s) ∧
    (∀ b later, s.txOffer = some b → s.readyIn = false :: later →
      step s = .next { s with readyIn := later } ∧ State.txOffer { s with readyIn := later } = some b) ∧
    ∀ b, s.txOffer = some b → s.readyIn = [] → s.readyAfter = false →
      s.status.busy = true ∧ step s = .next s ∧ ∀ n, Sys2Proof.core.run n s = .next s

/-- R121: the sequencer's step table, row by row: what the acceptance of INIT and of FLUSH does; that a byte
waits until the sink takes it; the steps that send nothing; then the bytes with a sink that takes every one. Only
the bytes need a transport that does not fail. -/
def Obligations.SequencerStepTable : Prop :=
  ∀ s : State, s.cfg.WellFormed → s.rstIn = [] →
    (∀ w rest, s.status.busy = false → s.phase = .idle → s.view = .smallStep → s.program = w :: rest →
      (decode w = .legal .init →
        step s = .next { s.accept w with phase := .initSeq, cursor := 0 } ∧
          (s.accept w).status.busy = true) ∧
      (decode w = .legal .flush → s.status.initDone = true →
        step s = .next { s.accept w with phase := .fColCmd }) ∧
      (decode w = .legal .flush → s.status.initDone = false →
        step s = .next { s.accept w with
          status := { s.status with errNoinit := true, busy := false } })) ∧
    (s.status.busy = true →
    (∀ b later, s.txOffer = some b → step { s with readyIn := false :: later } =
      .next { s with readyIn := later }) ∧
    (s.phase = .initSeq → s.cursor = (transfersOf (initEvents s.cfg)).length →
      step s = .next { s with cursor := 0, phase := .zero }) ∧
    (s.phase = .zero → s.cursor + 1 < s.cfg.fbBytes →
      step s = .next { s with storage := s.storage.write s.cursor 0, cursor := s.cursor + 1 }) ∧
    (s.phase = .zero → s.cursor + 1 = s.cfg.fbBytes →
      step s = .next { s with
        storage := s.storage.write s.cursor 0
        status := { s.status with initDone := true }
        cursor := 0
        phase := .fColCmd }) ∧
    (s.cfg.fallible = false → s.readyIn = [] → s.readyAfter = true →
    (∀ b, s.phase = .initSeq → (transfersOf (initEvents s.cfg))[s.cursor]? = some b →
      step s = .next { s with wire := s.wire ++ [b], cursor := s.cursor + 1 }) ∧
    (s.phase = .fColCmd → step s = .next { s with
      wire := s.wire ++ [⟨false, false, false, s.cfg.cmdSetCol⟩], phase := .fColMin }) ∧
    (s.phase = .fColMin → step s = .next { s with
      wire := s.wire ++ [⟨true, false, false, s.cfg.colMin⟩], phase := .fColMax }) ∧
    (s.phase = .fColMax → step s = .next { s with
      wire := s.wire ++ [⟨true, false, false, s.cfg.colMax⟩], phase := .fRowCmd }) ∧
    (s.phase = .fRowCmd → step s = .next { s with
      wire := s.wire ++ [⟨false, false, false, s.cfg.cmdSetRow⟩], phase := .fRowMin }) ∧
    (s.phase = .fRowMin → step s = .next { s with
      wire := s.wire ++ [⟨true, false, false, s.cfg.rowMin⟩], phase := .fRowMax }) ∧
    (s.phase = .fRowMax → step s = .next { s with
      wire := s.wire ++ [⟨true, false, false, s.cfg.rowMax⟩], phase := .fWram }) ∧
    (s.phase = .fWram → step s = .next { s with
      wire := s.wire ++ [⟨false, false, false, s.cfg.cmdWriteRam⟩], phase := .fStream, cursor := 0 }) ∧
    (s.phase = .fStream → s.cursor + 1 < s.cfg.fbBytes → step s = .next { s with
      wire := s.wire ++ [⟨true, true, false, s.readByte s.cursor⟩], cursor := s.cursor + 1 }) ∧
    (s.phase = .fStream → s.cursor + 1 = s.cfg.fbBytes → step s = .next { s with
      wire := s.wire ++ [⟨true, true, true, s.readByte s.cursor⟩]
      cursor := 0
      phase := .idle
      status := { s.status with busy := false }
      deviceStale := false })))

/-- R122: the two views agree. From an idle block, the small steps of the word presented lead, without an
idle block in between, to exactly the state of the one big step, whatever the sink answers and however it
stalls; the block is idle then if the sink takes each byte eventually (log 9). R122 speaks of INIT and FLUSH; the
small steps of the other commands are the model's (log 17). -/
def Obligations.SmallStepsAgreeWithBigStep : Prop :=
  ∀ (s : State) (w : Word) (rest : List Word), s.cfg.WellFormed → s.status.busy = false →
    s.phase = .idle → s.rstIn = [] → s.view = .smallStep → s.program = w :: rest →
    ∃ n t, step { s with view := .bigStep } = .next t ∧
      Sys2Proof.core.run n s = .next { t with view := .smallStep } ∧
      (s.readyAfter = true → t.status.busy = false) ∧
      ∀ m, 0 < m → m < n → ∃ u : State, Sys2Proof.core.run m s = .next u ∧ u.status.busy = true

/-- R186: with a sink that takes each byte eventually (log 9), a command in progress ends within a number of
steps that the configuration and the sink's stalls fix, whatever else the sink answers. -/
def Obligations.EveryCommandTerminates : Prop :=
  ∀ s : State, RunInv s → s.rstIn = [] → s.readyAfter = true →
    ∃ n ≤ s.readyIn.length + (transfersOf (initEvents s.cfg)).length + 2 * s.cfg.fbBytes + 16,
      ∃ t : State, Sys2Proof.core.run n s = .next t ∧ t.status.busy = false

/-! ### The device -/

/-- R127, under the assumption R126 about the device (log 12) and the premises named: after a completed
FLUSH the device's window holds a copy of `storage`, after INIT zeros, and the commands that send
nothing leave it so (R53, R178). -/
def Obligations.DeviceHoldsTheFrame : Prop :=
  ∀ s : State, s.cfg.WellFormed → s.cfg.fallible = false → s.cfg.distinctCommands →
    s.cfg.windowMatches →
    (s.readyAfter = true → s.status.initDone = true → ∃ t, exec .flush s = .next t ∧
      ∀ r < s.cfg.height, ∀ k < s.cfg.rowBytes,
        t.panelByte r k = some (s.readByte (r * s.cfg.rowBytes + k))) ∧
    (s.readyAfter = true → ∃ t, exec .init s = .next t ∧
      ∀ r < s.cfg.height, ∀ k < s.cfg.rowBytes, t.panelByte r k = some 0) ∧
    ∀ i u, i ≠ Instr.init → i ≠ .flush → exec i s = .next u →
      ∀ r k, u.panelByte r k = s.panelByte r k
end

