-- ==== Sys2Proof/Laws/State.lean ====
section
/-! SUPPORT. What each named update of the state does to each field, so that no proof unfolds one. -/

namespace Sys2Proof.Machine

variable (s : State)

@[simp] theorem State.withStorage_cfg (m : Memory) : (s.withStorage m).cfg = s.cfg := rfl
@[simp] theorem State.withStorage_storage (m : Memory) : (s.withStorage m).storage = m := rfl
@[simp] theorem State.withStorage_opCode (m : Memory) : (s.withStorage m).opCode = s.opCode := rfl
@[simp] theorem State.withStorage_opI (m : Memory) : (s.withStorage m).opI = s.opI := rfl
@[simp] theorem State.withStorage_opY (m : Memory) : (s.withStorage m).opY = s.opY := rfl
@[simp] theorem State.withStorage_opX (m : Memory) : (s.withStorage m).opX = s.opX := rfl
@[simp] theorem State.withStorage_phase (m : Memory) : (s.withStorage m).phase = s.phase := rfl
@[simp] theorem State.withStorage_cursor (m : Memory) : (s.withStorage m).cursor = s.cursor := rfl
@[simp] theorem State.withStorage_status (m : Memory) : (s.withStorage m).status = s.status := rfl
@[simp] theorem State.withStorage_resp (m : Memory) : (s.withStorage m).resp = s.resp := rfl
@[simp] theorem State.withStorage_wire (m : Memory) : (s.withStorage m).wire = s.wire := rfl
@[simp] theorem State.withStorage_deviceStale (m : Memory) : (s.withStorage m).deviceStale = s.deviceStale := rfl
@[simp] theorem State.withStorage_program (m : Memory) : (s.withStorage m).program = s.program := rfl
@[simp] theorem State.withStorage_rstIn (m : Memory) : (s.withStorage m).rstIn = s.rstIn := rfl
@[simp] theorem State.withStorage_readyIn (m : Memory) : (s.withStorage m).readyIn = s.readyIn := rfl
@[simp] theorem State.withStorage_readyAfter (m : Memory) : (s.withStorage m).readyAfter = s.readyAfter := rfl
@[simp] theorem State.withStorage_failIn (m : Memory) : (s.withStorage m).failIn = s.failIn := rfl
@[simp] theorem State.withStorage_epoch (m : Memory) : (s.withStorage m).epoch = s.epoch := rfl
@[simp] theorem State.withStorage_view (m : Memory) : (s.withStorage m).view = s.view := rfl

@[simp] theorem State.withResp_cfg (hit : Bool) (native : Byte) : (s.withResp hit native).cfg = s.cfg := rfl
@[simp] theorem State.withResp_storage (hit : Bool) (native : Byte) : (s.withResp hit native).storage = s.storage := rfl
@[simp] theorem State.withResp_opCode (hit : Bool) (native : Byte) : (s.withResp hit native).opCode = s.opCode := rfl
@[simp] theorem State.withResp_opI (hit : Bool) (native : Byte) : (s.withResp hit native).opI = s.opI := rfl
@[simp] theorem State.withResp_opY (hit : Bool) (native : Byte) : (s.withResp hit native).opY = s.opY := rfl
@[simp] theorem State.withResp_opX (hit : Bool) (native : Byte) : (s.withResp hit native).opX = s.opX := rfl
@[simp] theorem State.withResp_phase (hit : Bool) (native : Byte) : (s.withResp hit native).phase = s.phase := rfl
@[simp] theorem State.withResp_cursor (hit : Bool) (native : Byte) : (s.withResp hit native).cursor = s.cursor := rfl
@[simp] theorem State.withResp_status (hit : Bool) (native : Byte) : (s.withResp hit native).status = s.status := rfl
@[simp] theorem State.withResp_resp (hit : Bool) (native : Byte) : (s.withResp hit native).resp = ⟨hit, native⟩ := rfl
@[simp] theorem State.withResp_wire (hit : Bool) (native : Byte) : (s.withResp hit native).wire = s.wire := rfl
@[simp] theorem State.withResp_deviceStale (hit : Bool) (native : Byte) : (s.withResp hit native).deviceStale = s.deviceStale := rfl
@[simp] theorem State.withResp_program (hit : Bool) (native : Byte) : (s.withResp hit native).program = s.program := rfl
@[simp] theorem State.withResp_rstIn (hit : Bool) (native : Byte) : (s.withResp hit native).rstIn = s.rstIn := rfl
@[simp] theorem State.withResp_readyIn (hit : Bool) (native : Byte) : (s.withResp hit native).readyIn = s.readyIn := rfl
@[simp] theorem State.withResp_readyAfter (hit : Bool) (native : Byte) : (s.withResp hit native).readyAfter = s.readyAfter := rfl
@[simp] theorem State.withResp_failIn (hit : Bool) (native : Byte) : (s.withResp hit native).failIn = s.failIn := rfl
@[simp] theorem State.withResp_epoch (hit : Bool) (native : Byte) : (s.withResp hit native).epoch = s.epoch := rfl
@[simp] theorem State.withResp_view (hit : Bool) (native : Byte) : (s.withResp hit native).view = s.view := rfl

@[simp] theorem State.raise_cfg (e : ErrorFlag) : (s.raise e).cfg = s.cfg := rfl
@[simp] theorem State.raise_storage (e : ErrorFlag) : (s.raise e).storage = s.storage := rfl
@[simp] theorem State.raise_opCode (e : ErrorFlag) : (s.raise e).opCode = s.opCode := rfl
@[simp] theorem State.raise_opI (e : ErrorFlag) : (s.raise e).opI = s.opI := rfl
@[simp] theorem State.raise_opY (e : ErrorFlag) : (s.raise e).opY = s.opY := rfl
@[simp] theorem State.raise_opX (e : ErrorFlag) : (s.raise e).opX = s.opX := rfl
@[simp] theorem State.raise_phase (e : ErrorFlag) : (s.raise e).phase = .idle := rfl
@[simp] theorem State.raise_cursor (e : ErrorFlag) : (s.raise e).cursor = s.cursor := rfl
@[simp] theorem State.raise_status (e : ErrorFlag) : (s.raise e).status = { s.status.withError e with busy := false } := rfl
@[simp] theorem State.raise_resp (e : ErrorFlag) : (s.raise e).resp = s.resp := rfl
@[simp] theorem State.raise_wire (e : ErrorFlag) : (s.raise e).wire = s.wire := rfl
@[simp] theorem State.raise_deviceStale (e : ErrorFlag) : (s.raise e).deviceStale = s.deviceStale := rfl
@[simp] theorem State.raise_program (e : ErrorFlag) : (s.raise e).program = s.program := rfl
@[simp] theorem State.raise_rstIn (e : ErrorFlag) : (s.raise e).rstIn = s.rstIn := rfl
@[simp] theorem State.raise_readyIn (e : ErrorFlag) : (s.raise e).readyIn = s.readyIn := rfl
@[simp] theorem State.raise_readyAfter (e : ErrorFlag) : (s.raise e).readyAfter = s.readyAfter := rfl
@[simp] theorem State.raise_failIn (e : ErrorFlag) : (s.raise e).failIn = s.failIn := rfl
@[simp] theorem State.raise_epoch (e : ErrorFlag) : (s.raise e).epoch = s.epoch := rfl
@[simp] theorem State.raise_view (e : ErrorFlag) : (s.raise e).view = s.view := rfl

@[simp] theorem State.accept_cfg (w : Word) : (s.accept w).cfg = s.cfg := rfl
@[simp] theorem State.accept_storage (w : Word) : (s.accept w).storage = s.storage := rfl
@[simp] theorem State.accept_opCode (w : Word) : (s.accept w).opCode = fieldOp w := rfl
@[simp] theorem State.accept_opI (w : Word) : (s.accept w).opI = fieldI w := rfl
@[simp] theorem State.accept_opY (w : Word) : (s.accept w).opY = fieldY w := rfl
@[simp] theorem State.accept_opX (w : Word) : (s.accept w).opX = fieldX w := rfl
@[simp] theorem State.accept_phase (w : Word) : (s.accept w).phase = s.phase := rfl
@[simp] theorem State.accept_cursor (w : Word) : (s.accept w).cursor = s.cursor := rfl
@[simp] theorem State.accept_status (w : Word) : (s.accept w).status = { s.status with busy := true } := rfl
@[simp] theorem State.accept_resp (w : Word) : (s.accept w).resp = s.resp := rfl
@[simp] theorem State.accept_wire (w : Word) : (s.accept w).wire = s.wire := rfl
@[simp] theorem State.accept_deviceStale (w : Word) : (s.accept w).deviceStale = s.deviceStale := rfl
@[simp] theorem State.accept_program (w : Word) : (s.accept w).program = s.program.tail := rfl
@[simp] theorem State.accept_rstIn (w : Word) : (s.accept w).rstIn = s.rstIn := rfl
@[simp] theorem State.accept_readyIn (w : Word) : (s.accept w).readyIn = s.readyIn := rfl
@[simp] theorem State.accept_readyAfter (w : Word) : (s.accept w).readyAfter = s.readyAfter := rfl
@[simp] theorem State.accept_failIn (w : Word) : (s.accept w).failIn = s.failIn := rfl
@[simp] theorem State.accept_epoch (w : Word) : (s.accept w).epoch = s.epoch := rfl
@[simp] theorem State.accept_view (w : Word) : (s.accept w).view = s.view := rfl

@[simp] theorem State.complete_cfg : (s.complete).cfg = s.cfg := rfl
@[simp] theorem State.complete_storage : (s.complete).storage = s.storage := rfl
@[simp] theorem State.complete_opCode : (s.complete).opCode = s.opCode := rfl
@[simp] theorem State.complete_opI : (s.complete).opI = s.opI := rfl
@[simp] theorem State.complete_opY : (s.complete).opY = s.opY := rfl
@[simp] theorem State.complete_opX : (s.complete).opX = s.opX := rfl
@[simp] theorem State.complete_phase : (s.complete).phase = s.phase := rfl
@[simp] theorem State.complete_cursor : (s.complete).cursor = s.cursor := rfl
@[simp] theorem State.complete_status : (s.complete).status = { s.status with busy := false } := rfl
@[simp] theorem State.complete_resp : (s.complete).resp = s.resp := rfl
@[simp] theorem State.complete_wire : (s.complete).wire = s.wire := rfl
@[simp] theorem State.complete_deviceStale : (s.complete).deviceStale = s.deviceStale := rfl
@[simp] theorem State.complete_program : (s.complete).program = s.program := rfl
@[simp] theorem State.complete_rstIn : (s.complete).rstIn = s.rstIn := rfl
@[simp] theorem State.complete_readyIn : (s.complete).readyIn = s.readyIn := rfl
@[simp] theorem State.complete_readyAfter : (s.complete).readyAfter = s.readyAfter := rfl
@[simp] theorem State.complete_failIn : (s.complete).failIn = s.failIn := rfl
@[simp] theorem State.complete_epoch : (s.complete).epoch = s.epoch := rfl
@[simp] theorem State.complete_view : (s.complete).view = s.view := rfl

@[simp] theorem State.popRst_cfg : (s.popRst).cfg = s.cfg := rfl
@[simp] theorem State.popRst_storage : (s.popRst).storage = s.storage := rfl
@[simp] theorem State.popRst_opCode : (s.popRst).opCode = s.opCode := rfl
@[simp] theorem State.popRst_opI : (s.popRst).opI = s.opI := rfl
@[simp] theorem State.popRst_opY : (s.popRst).opY = s.opY := rfl
@[simp] theorem State.popRst_opX : (s.popRst).opX = s.opX := rfl
@[simp] theorem State.popRst_phase : (s.popRst).phase = s.phase := rfl
@[simp] theorem State.popRst_cursor : (s.popRst).cursor = s.cursor := rfl
@[simp] theorem State.popRst_status : (s.popRst).status = s.status := rfl
@[simp] theorem State.popRst_resp : (s.popRst).resp = s.resp := rfl
@[simp] theorem State.popRst_wire : (s.popRst).wire = s.wire := rfl
@[simp] theorem State.popRst_deviceStale : (s.popRst).deviceStale = s.deviceStale := rfl
@[simp] theorem State.popRst_program : (s.popRst).program = s.program := rfl
@[simp] theorem State.popRst_rstIn : (s.popRst).rstIn = s.rstIn.tail := rfl
@[simp] theorem State.popRst_readyIn : (s.popRst).readyIn = s.readyIn := rfl
@[simp] theorem State.popRst_readyAfter : (s.popRst).readyAfter = s.readyAfter := rfl
@[simp] theorem State.popRst_failIn : (s.popRst).failIn = s.failIn := rfl
@[simp] theorem State.popRst_epoch : (s.popRst).epoch = s.epoch := rfl
@[simp] theorem State.popRst_view : (s.popRst).view = s.view := rfl

@[simp] theorem State.resetBlock_cfg : (s.resetBlock).cfg = s.cfg := rfl
@[simp] theorem State.resetBlock_storage : (s.resetBlock).storage = ⟨[]⟩ := rfl
@[simp] theorem State.resetBlock_opCode : (s.resetBlock).opCode = 0 := rfl
@[simp] theorem State.resetBlock_opI : (s.resetBlock).opI = 0 := rfl
@[simp] theorem State.resetBlock_opY : (s.resetBlock).opY = 0 := rfl
@[simp] theorem State.resetBlock_opX : (s.resetBlock).opX = 0 := rfl
@[simp] theorem State.resetBlock_phase : (s.resetBlock).phase = .idle := rfl
@[simp] theorem State.resetBlock_cursor : (s.resetBlock).cursor = 0 := rfl
@[simp] theorem State.resetBlock_status : (s.resetBlock).status = ⟨false, false, false, false, false⟩ := rfl
@[simp] theorem State.resetBlock_resp : (s.resetBlock).resp = ⟨false, 0⟩ := rfl
@[simp] theorem State.resetBlock_wire : (s.resetBlock).wire = s.wire := rfl
@[simp] theorem State.resetBlock_deviceStale : (s.resetBlock).deviceStale = (s.deviceStale || decide (s.phase ≠ .idle)) := rfl
@[simp] theorem State.resetBlock_program : (s.resetBlock).program = s.program := rfl
@[simp] theorem State.resetBlock_rstIn : (s.resetBlock).rstIn = s.rstIn := rfl
@[simp] theorem State.resetBlock_readyIn : (s.resetBlock).readyIn = s.readyIn := rfl
@[simp] theorem State.resetBlock_readyAfter : (s.resetBlock).readyAfter = s.readyAfter := rfl
@[simp] theorem State.resetBlock_failIn : (s.resetBlock).failIn = s.failIn := rfl
@[simp] theorem State.resetBlock_epoch : (s.resetBlock).epoch = s.epoch + 1 := rfl
@[simp] theorem State.resetBlock_view : (s.resetBlock).view = s.view := rfl

@[simp] theorem State.transfer_cfg (t : Transfer) : (s.transfer t).cfg = s.cfg := rfl
@[simp] theorem State.transfer_storage (t : Transfer) : (s.transfer t).storage = s.storage := rfl
@[simp] theorem State.transfer_opCode (t : Transfer) : (s.transfer t).opCode = s.opCode := rfl
@[simp] theorem State.transfer_opI (t : Transfer) : (s.transfer t).opI = s.opI := rfl
@[simp] theorem State.transfer_opY (t : Transfer) : (s.transfer t).opY = s.opY := rfl
@[simp] theorem State.transfer_opX (t : Transfer) : (s.transfer t).opX = s.opX := rfl
@[simp] theorem State.transfer_phase (t : Transfer) : (s.transfer t).phase = s.phase := rfl
@[simp] theorem State.transfer_cursor (t : Transfer) : (s.transfer t).cursor = s.cursor := rfl
@[simp] theorem State.transfer_status (t : Transfer) : (s.transfer t).status = s.status := rfl
@[simp] theorem State.transfer_resp (t : Transfer) : (s.transfer t).resp = s.resp := rfl
@[simp] theorem State.transfer_wire (t : Transfer) : (s.transfer t).wire = s.wire ++ [t] := rfl
@[simp] theorem State.transfer_deviceStale (t : Transfer) : (s.transfer t).deviceStale = s.deviceStale := rfl
@[simp] theorem State.transfer_program (t : Transfer) : (s.transfer t).program = s.program := rfl
@[simp] theorem State.transfer_rstIn (t : Transfer) : (s.transfer t).rstIn = s.rstIn := rfl
@[simp] theorem State.transfer_readyIn (t : Transfer) : (s.transfer t).readyIn = s.readyIn := rfl
@[simp] theorem State.transfer_readyAfter (t : Transfer) : (s.transfer t).readyAfter = s.readyAfter := rfl
@[simp] theorem State.transfer_failIn (t : Transfer) : (s.transfer t).failIn = if s.cfg.fallible then s.failIn.tail else s.failIn := rfl
@[simp] theorem State.transfer_epoch (t : Transfer) : (s.transfer t).epoch = s.epoch := rfl
@[simp] theorem State.transfer_view (t : Transfer) : (s.transfer t).view = s.view := rfl

@[simp] theorem State.awaited_cfg : (s.awaited).cfg = s.cfg := rfl
@[simp] theorem State.awaited_storage : (s.awaited).storage = s.storage := rfl
@[simp] theorem State.awaited_opCode : (s.awaited).opCode = s.opCode := rfl
@[simp] theorem State.awaited_opI : (s.awaited).opI = s.opI := rfl
@[simp] theorem State.awaited_opY : (s.awaited).opY = s.opY := rfl
@[simp] theorem State.awaited_opX : (s.awaited).opX = s.opX := rfl
@[simp] theorem State.awaited_phase : (s.awaited).phase = s.phase := rfl
@[simp] theorem State.awaited_cursor : (s.awaited).cursor = s.cursor := rfl
@[simp] theorem State.awaited_status : (s.awaited).status = s.status := rfl
@[simp] theorem State.awaited_resp : (s.awaited).resp = s.resp := rfl
@[simp] theorem State.awaited_wire : (s.awaited).wire = s.wire := rfl
@[simp] theorem State.awaited_deviceStale : (s.awaited).deviceStale = s.deviceStale := rfl
@[simp] theorem State.awaited_program : (s.awaited).program = s.program := rfl
@[simp] theorem State.awaited_rstIn : (s.awaited).rstIn = s.rstIn := rfl
@[simp] theorem State.awaited_readyIn : (s.awaited).readyIn = samplesAfterByte s.readyIn := rfl
@[simp] theorem State.awaited_readyAfter : (s.awaited).readyAfter = s.readyAfter := rfl
@[simp] theorem State.awaited_failIn : (s.awaited).failIn = s.failIn := rfl
@[simp] theorem State.awaited_epoch : (s.awaited).epoch = s.epoch := rfl
@[simp] theorem State.awaited_view : (s.awaited).view = s.view := rfl

@[simp] theorem State.beginInit_cfg : (s.beginInit).cfg = s.cfg := rfl
@[simp] theorem State.beginInit_storage : (s.beginInit).storage = s.storage := rfl
@[simp] theorem State.beginInit_opCode : (s.beginInit).opCode = s.opCode := rfl
@[simp] theorem State.beginInit_opI : (s.beginInit).opI = s.opI := rfl
@[simp] theorem State.beginInit_opY : (s.beginInit).opY = s.opY := rfl
@[simp] theorem State.beginInit_opX : (s.beginInit).opX = s.opX := rfl
@[simp] theorem State.beginInit_phase : (s.beginInit).phase = .initSeq := rfl
@[simp] theorem State.beginInit_cursor : (s.beginInit).cursor = 0 := rfl
@[simp] theorem State.beginInit_status : (s.beginInit).status = { s.status with busy := true } := rfl
@[simp] theorem State.beginInit_resp : (s.beginInit).resp = s.resp := rfl
@[simp] theorem State.beginInit_wire : (s.beginInit).wire = s.wire := rfl
@[simp] theorem State.beginInit_deviceStale : (s.beginInit).deviceStale = s.deviceStale := rfl
@[simp] theorem State.beginInit_program : (s.beginInit).program = s.program := rfl
@[simp] theorem State.beginInit_rstIn : (s.beginInit).rstIn = s.rstIn := rfl
@[simp] theorem State.beginInit_readyIn : (s.beginInit).readyIn = s.readyIn := rfl
@[simp] theorem State.beginInit_readyAfter : (s.beginInit).readyAfter = s.readyAfter := rfl
@[simp] theorem State.beginInit_failIn : (s.beginInit).failIn = s.failIn := rfl
@[simp] theorem State.beginInit_epoch : (s.beginInit).epoch = s.epoch := rfl
@[simp] theorem State.beginInit_view : (s.beginInit).view = s.view := rfl

@[simp] theorem State.beginFlush_cfg : (s.beginFlush).cfg = s.cfg := rfl
@[simp] theorem State.beginFlush_storage : (s.beginFlush).storage = s.storage := rfl
@[simp] theorem State.beginFlush_opCode : (s.beginFlush).opCode = s.opCode := rfl
@[simp] theorem State.beginFlush_opI : (s.beginFlush).opI = s.opI := rfl
@[simp] theorem State.beginFlush_opY : (s.beginFlush).opY = s.opY := rfl
@[simp] theorem State.beginFlush_opX : (s.beginFlush).opX = s.opX := rfl
@[simp] theorem State.beginFlush_phase : (s.beginFlush).phase = .fColCmd := rfl
@[simp] theorem State.beginFlush_cursor : (s.beginFlush).cursor = s.cursor := rfl
@[simp] theorem State.beginFlush_status : (s.beginFlush).status = { s.status with busy := true } := rfl
@[simp] theorem State.beginFlush_resp : (s.beginFlush).resp = s.resp := rfl
@[simp] theorem State.beginFlush_wire : (s.beginFlush).wire = s.wire := rfl
@[simp] theorem State.beginFlush_deviceStale : (s.beginFlush).deviceStale = s.deviceStale := rfl
@[simp] theorem State.beginFlush_program : (s.beginFlush).program = s.program := rfl
@[simp] theorem State.beginFlush_rstIn : (s.beginFlush).rstIn = s.rstIn := rfl
@[simp] theorem State.beginFlush_readyIn : (s.beginFlush).readyIn = s.readyIn := rfl
@[simp] theorem State.beginFlush_readyAfter : (s.beginFlush).readyAfter = s.readyAfter := rfl
@[simp] theorem State.beginFlush_failIn : (s.beginFlush).failIn = s.failIn := rfl
@[simp] theorem State.beginFlush_epoch : (s.beginFlush).epoch = s.epoch := rfl
@[simp] theorem State.beginFlush_view : (s.beginFlush).view = s.view := rfl

@[simp] theorem State.failTransfer_cfg : (s.failTransfer).cfg = s.cfg := rfl
@[simp] theorem State.failTransfer_storage : (s.failTransfer).storage = s.storage := rfl
@[simp] theorem State.failTransfer_opCode : (s.failTransfer).opCode = s.opCode := rfl
@[simp] theorem State.failTransfer_opI : (s.failTransfer).opI = s.opI := rfl
@[simp] theorem State.failTransfer_opY : (s.failTransfer).opY = s.opY := rfl
@[simp] theorem State.failTransfer_opX : (s.failTransfer).opX = s.opX := rfl
@[simp] theorem State.failTransfer_phase : (s.failTransfer).phase = .idle := rfl
@[simp] theorem State.failTransfer_cursor : (s.failTransfer).cursor = 0 := rfl
@[simp] theorem State.failTransfer_status : (s.failTransfer).status = { s.status with errXfer := true, busy := false } := rfl
@[simp] theorem State.failTransfer_resp : (s.failTransfer).resp = s.resp := rfl
@[simp] theorem State.failTransfer_wire : (s.failTransfer).wire = s.wire := rfl
@[simp] theorem State.failTransfer_deviceStale : (s.failTransfer).deviceStale = true := rfl
@[simp] theorem State.failTransfer_program : (s.failTransfer).program = s.program := rfl
@[simp] theorem State.failTransfer_rstIn : (s.failTransfer).rstIn = s.rstIn := rfl
@[simp] theorem State.failTransfer_readyIn : (s.failTransfer).readyIn = s.readyIn := rfl
@[simp] theorem State.failTransfer_readyAfter : (s.failTransfer).readyAfter = s.readyAfter := rfl
@[simp] theorem State.failTransfer_failIn : (s.failTransfer).failIn = s.failIn := rfl
@[simp] theorem State.failTransfer_epoch : (s.failTransfer).epoch = s.epoch := rfl
@[simp] theorem State.failTransfer_view : (s.failTransfer).view = s.view := rfl

@[simp] theorem State.flushDone_cfg : (s.flushDone).cfg = s.cfg := rfl
@[simp] theorem State.flushDone_storage : (s.flushDone).storage = s.storage := rfl
@[simp] theorem State.flushDone_opCode : (s.flushDone).opCode = s.opCode := rfl
@[simp] theorem State.flushDone_opI : (s.flushDone).opI = s.opI := rfl
@[simp] theorem State.flushDone_opY : (s.flushDone).opY = s.opY := rfl
@[simp] theorem State.flushDone_opX : (s.flushDone).opX = s.opX := rfl
@[simp] theorem State.flushDone_phase : (s.flushDone).phase = .idle := rfl
@[simp] theorem State.flushDone_cursor : (s.flushDone).cursor = 0 := rfl
@[simp] theorem State.flushDone_status : (s.flushDone).status = s.status := rfl
@[simp] theorem State.flushDone_resp : (s.flushDone).resp = s.resp := rfl
@[simp] theorem State.flushDone_wire : (s.flushDone).wire = s.wire := rfl
@[simp] theorem State.flushDone_deviceStale : (s.flushDone).deviceStale = false := rfl
@[simp] theorem State.flushDone_program : (s.flushDone).program = s.program := rfl
@[simp] theorem State.flushDone_rstIn : (s.flushDone).rstIn = s.rstIn := rfl
@[simp] theorem State.flushDone_readyIn : (s.flushDone).readyIn = s.readyIn := rfl
@[simp] theorem State.flushDone_readyAfter : (s.flushDone).readyAfter = s.readyAfter := rfl
@[simp] theorem State.flushDone_failIn : (s.flushDone).failIn = s.failIn := rfl
@[simp] theorem State.flushDone_epoch : (s.flushDone).epoch = s.epoch := rfl
@[simp] theorem State.flushDone_view : (s.flushDone).view = s.view := rfl

@[simp] theorem zeroFilled_cfg : (zeroFilled s).cfg = s.cfg := rfl
@[simp] theorem zeroFilled_storage : (zeroFilled s).storage = s.storage.fill 0 s.cfg.fbBytes := rfl
@[simp] theorem zeroFilled_opCode : (zeroFilled s).opCode = s.opCode := rfl
@[simp] theorem zeroFilled_opI : (zeroFilled s).opI = s.opI := rfl
@[simp] theorem zeroFilled_opY : (zeroFilled s).opY = s.opY := rfl
@[simp] theorem zeroFilled_opX : (zeroFilled s).opX = s.opX := rfl
@[simp] theorem zeroFilled_phase : (zeroFilled s).phase = s.phase := rfl
@[simp] theorem zeroFilled_cursor : (zeroFilled s).cursor = s.cursor := rfl
@[simp] theorem zeroFilled_status : (zeroFilled s).status = { s.status with initDone := true } := rfl
@[simp] theorem zeroFilled_resp : (zeroFilled s).resp = s.resp := rfl
@[simp] theorem zeroFilled_wire : (zeroFilled s).wire = s.wire := rfl
@[simp] theorem zeroFilled_deviceStale : (zeroFilled s).deviceStale = s.deviceStale := rfl
@[simp] theorem zeroFilled_program : (zeroFilled s).program = s.program := rfl
@[simp] theorem zeroFilled_rstIn : (zeroFilled s).rstIn = s.rstIn := rfl
@[simp] theorem zeroFilled_readyIn : (zeroFilled s).readyIn = s.readyIn := rfl
@[simp] theorem zeroFilled_readyAfter : (zeroFilled s).readyAfter = s.readyAfter := rfl
@[simp] theorem zeroFilled_failIn : (zeroFilled s).failIn = s.failIn := rfl
@[simp] theorem zeroFilled_epoch : (zeroFilled s).epoch = s.epoch := rfl
@[simp] theorem zeroFilled_view : (zeroFilled s).view = s.view := rfl

end Sys2Proof.Machine
end

