-- ==== Sys2Proof/Laws/Memory.lean ====
section
/-! SUPPORT. The laws of `storage`: read after write, the canonical form, and that a canonical memory is
determined by what it lists. -/

namespace Sys2Proof.Machine

/-! ### Read after write -/

theorem lookupCells_write (cells : List Host.Cell) (a b : Nat) (v : Byte) :
    lookupCells (writeCells cells a v) b = if a = b then some v else lookupCells cells b := by
  induction cells with
  | nil => simp [writeCells, lookupCells]
  | cons cell rest ih =>
    obtain ⟨k, w⟩ := cell
    simp only [writeCells]
    split
    · simp [lookupCells]
    · split
      · subst_vars
        simp only [lookupCells]
        split <;> simp_all
      · simp only [lookupCells, ih]
        split <;> simp_all

@[simp] theorem Memory.lookup_write (m : Memory) (a b : Nat) (v : Byte) :
    (m.write a v).lookup b = if a = b then some v else m.lookup b :=
  lookupCells_write m.cells a b v

@[simp] theorem Memory.lookup_fill (m : Memory) (v : Byte) (n b : Nat) :
    (m.fill v n).lookup b = if b < n then some v else m.lookup b := by
  induction n with
  | zero => simp [Memory.fill]
  | succ n ih =>
    simp only [Memory.fill, Memory.lookup_write, ih]
    by_cases hb : n = b
    · simp [hb]
    · have : b < n + 1 ↔ b < n := by omega
      simp [hb, this]

@[simp] theorem Memory.lookup_empty (a : Nat) : (Memory.mk []).lookup a = none := rfl

/-! ### The canonical form -/

theorem mem_writeCells {cells : List Host.Cell} {a : Nat} {v : Byte} {p : Host.Cell}
    (h : p ∈ writeCells cells a v) : p = (a, v) ∨ p ∈ cells := by
  induction cells with
  | nil => simpa [writeCells] using h
  | cons cell rest ih =>
    obtain ⟨k, w⟩ := cell
    simp only [writeCells] at h
    split at h
    · simpa using h
    · split at h
      · rcases List.mem_cons.mp h with h | h <;> simp [h]
      · rcases List.mem_cons.mp h with h | h
        · simp [h]
        · rcases ih h with h | h <;> simp [h]

theorem writeCells_rising {cells : List Host.Cell} (a : Nat) (v : Byte)
    (h : cells.Pairwise fun p q => p.1 < q.1) :
    (writeCells cells a v).Pairwise fun p q => p.1 < q.1 := by
  induction cells with
  | nil => simp [writeCells]
  | cons cell rest ih =>
    obtain ⟨k, w⟩ := cell
    obtain ⟨hk, hrest⟩ := List.pairwise_cons.mp h
    simp only [writeCells]
    split
    · refine List.pairwise_cons.mpr ⟨fun q hq => ?_, h⟩
      rcases List.mem_cons.mp hq with rfl | hq
      · assumption
      · exact Nat.lt_trans ‹a < k› (hk q hq)
    · split
      · subst_vars
        exact List.pairwise_cons.mpr ⟨hk, hrest⟩
      · refine List.pairwise_cons.mpr ⟨fun q hq => ?_, ih hrest⟩
        rcases mem_writeCells hq with rfl | hq
        · show k < a
          omega
        · exact hk q hq

theorem Memory.write_wf {m : Memory} (a : Nat) (v : Byte) (h : m.wf) : (m.write a v).wf :=
  writeCells_rising a v h

theorem Memory.fill_wf {m : Memory} (v : Byte) (n : Nat) (h : m.wf) : (m.fill v n).wf := by
  induction n with
  | zero => exact h
  | succ n ih => exact Memory.write_wf n v ih

theorem Memory.empty_wf : (Memory.mk []).wf := List.Pairwise.nil

/-- A write lists no address but its own. -/
theorem Memory.mem_write {m : Memory} {a : Nat} {v : Byte} {p : Host.Cell}
    (h : p ∈ (m.write a v).cells) : p = (a, v) ∨ p ∈ m.cells := mem_writeCells h

theorem Memory.mem_fill {m : Memory} {v : Byte} {n : Nat} {p : Host.Cell}
    (h : p ∈ (m.fill v n).cells) : p.1 < n ∨ p ∈ m.cells := by
  induction n with
  | zero => exact .inr h
  | succ n ih =>
    rcases Memory.mem_write h with rfl | h
    · exact .inl (Nat.lt_succ_self n)
    · exact (ih h).imp_left fun h => Nat.lt_succ_of_lt h

/-! ### Equal memories are equal data -/

theorem lookupCells_eq_none {cells : List Host.Cell} {a : Nat} (h : ∀ p ∈ cells, a < p.1) :
    lookupCells cells a = none := by
  induction cells with
  | nil => rfl
  | cons cell rest ih =>
    obtain ⟨k, w⟩ := cell
    have hk : a < k := h (k, w) List.mem_cons_self
    simp only [lookupCells, if_neg (Nat.ne_of_gt hk)]
    exact ih fun p hp => h p (List.mem_cons_of_mem _ hp)

theorem cells_ext {l₁ l₂ : List Host.Cell} (h₁ : l₁.Pairwise fun p q => p.1 < q.1)
    (h₂ : l₂.Pairwise fun p q => p.1 < q.1) (h : ∀ a, lookupCells l₁ a = lookupCells l₂ a) :
    l₁ = l₂ := by
  induction l₁ generalizing l₂ with
  | nil =>
    cases l₂ with
    | nil => rfl
    | cons q rest =>
      obtain ⟨k, w⟩ := q
      simpa [lookupCells] using h k
  | cons p rest ih =>
    obtain ⟨k, v⟩ := p
    cases l₂ with
    | nil => simpa [lookupCells] using h k
    | cons q rest' =>
      obtain ⟨k', v'⟩ := q
      obtain ⟨hk, hrest⟩ := List.pairwise_cons.mp h₁
      obtain ⟨hk', hrest'⟩ := List.pairwise_cons.mp h₂
      have hkk : k = k' := by
        rcases Nat.lt_trichotomy k k' with hlt | heq | hlt
        · have hn : lookupCells ((k', v') :: rest') k = none := by
            apply lookupCells_eq_none
            intro p hp
            rcases List.mem_cons.mp hp with rfl | hp
            · exact hlt
            · exact Nat.lt_trans hlt (hk' p hp)
          have := h k
          rw [hn] at this
          simp [lookupCells] at this
        · exact heq
        · have hn : lookupCells ((k, v) :: rest) k' = none := by
            apply lookupCells_eq_none
            intro p hp
            rcases List.mem_cons.mp hp with rfl | hp
            · exact hlt
            · exact Nat.lt_trans hlt (hk p hp)
          have := h k'
          rw [hn] at this
          simp [lookupCells] at this
      subst hkk
      have hvv : v = v' := by simpa [lookupCells] using h k
      subst hvv
      have : rest = rest' := by
        apply ih hrest hrest'
        intro a
        by_cases hak : k = a
        · subst hak
          rw [lookupCells_eq_none hk, lookupCells_eq_none hk']
        · simpa [lookupCells, hak] using h a
      rw [this]

theorem Memory.ext_lookup {m₁ m₂ : Memory} (h₁ : m₁.wf) (h₂ : m₂.wf)
    (h : ∀ a, m₁.lookup a = m₂.lookup a) : m₁ = m₂ := by
  obtain ⟨l₁⟩ := m₁
  obtain ⟨l₂⟩ := m₂
  exact congrArg Memory.mk (cells_ext h₁ h₂ h)

theorem lookupCells_mem {cells : List Host.Cell} {a : Nat} {v : Byte}
    (h : lookupCells cells a = some v) : (a, v) ∈ cells := by
  induction cells with
  | nil => simp [lookupCells] at h
  | cons cell rest ih =>
    obtain ⟨k, w⟩ := cell
    simp only [lookupCells] at h
    split at h
    · simp_all
    · exact List.mem_cons_of_mem _ (ih h)

/-- An address that no cell of a bounded memory has lists nothing. -/
theorem Memory.lookup_of_bounded {m : Memory} {n a : Nat} (h : ∀ p ∈ m.cells, p.1 < n) (ha : n ≤ a) :
    m.lookup a = none := by
  cases hl : m.lookup a with
  | none => rfl
  | some v => exact absurd (h (a, v) (lookupCells_mem hl)) (Nat.not_lt.mpr ha)

/-! ### Reading a byte -/

theorem State.readByte_write (s : State) (a b : Nat) (v : Byte) :
    (s.withStorage (s.storage.write a v)).readByte b = if a = b then v else s.readByte b := by
  simp only [State.readByte, State.withStorage_storage, State.withStorage_epoch, Memory.lookup_write]
  split <;> rfl

theorem State.readByte_fill (s : State) (v : Byte) (n b : Nat) :
    (s.withStorage (s.storage.fill v n)).readByte b = if b < n then v else s.readByte b := by
  simp only [State.readByte, State.withStorage_storage, State.withStorage_epoch, Memory.lookup_fill]
  split <;> rfl

/-- Reading depends on `storage` and the count of resets only. -/
theorem State.readByte_congr {s t : State} (hm : t.storage = s.storage) (he : t.epoch = s.epoch) (a : Nat) :
    t.readByte a = s.readByte a := by
  simp [State.readByte, hm, he]

@[simp] theorem State.readByte_zeroFilled (s : State) (a : Nat) :
    (zeroFilled s).readByte a = if a < s.cfg.fbBytes then 0 else s.readByte a := by
  simp only [State.readByte, zeroFilled_storage, zeroFilled_epoch, Memory.lookup_fill]
  split <;> rfl

end Sys2Proof.Machine
end

