-- ==== Sys2Proof/Laws/Transport.lean ====
section
/-! SUPPORT. What sending transfers does, what changes nothing of it, and how long the event lists are. -/

namespace Sys2Proof.Machine

/-! ### The transfers of events -/

@[simp] theorem transfersOf_nil : transfersOf [] = [] := rfl

@[simp] theorem transfersOf_cons (e : Event) (es : List Event) :
    transfersOf (e :: es) = e.transfers ++ transfersOf es := by simp [transfersOf]

@[simp] theorem transfersOf_append (es₁ es₂ : List Event) :
    transfersOf (es₁ ++ es₂) = transfersOf es₁ ++ transfersOf es₂ := by simp [transfersOf]

@[simp] theorem bulkTransfers_length (bs : List Byte) : (bulkTransfers bs).length = bs.length := by
  induction bs with
  | nil => rfl
  | cons b bs ih => simp [bulkTransfers, ih]

/-- Transfer `k` of a `Bulk` event (R69). -/
theorem bulkTransfers_getElem? (bs : List Byte) (k : Nat) :
    (bulkTransfers bs)[k]? = (bs[k]?).map fun b => ⟨true, true, decide (k + 1 = bs.length), b⟩ := by
  induction bs generalizing k with
  | nil => simp [bulkTransfers]
  | cons b bs ih =>
    cases k with
    | zero => cases bs <;> simp [bulkTransfers]
    | succ k => simp [bulkTransfers, ih]

@[simp] theorem State.streamBytes_length (s : State) : s.streamBytes.length = s.cfg.fbBytes := by
  simp [State.streamBytes]

theorem State.streamBytes_getElem? (s : State) {a : Nat} (h : a < s.cfg.fbBytes) :
    s.streamBytes[a]? = some (s.readByte a) := by
  simp [State.streamBytes, h]

/-- The stream depends on the configuration, `storage` and the count of resets only. -/
theorem State.streamBytes_congr {s t : State} (hc : t.cfg = s.cfg) (hm : t.storage = s.storage)
    (he : t.epoch = s.epoch) : t.streamBytes = s.streamBytes := by
  simp [State.streamBytes, hc, State.readByte_congr hm he]

/-! ### Sending -/

/-- Everything that sending can do: the history grows by a leading part of the list, the whole of it where
nothing failed, and samples and answers are used up. -/
theorem transmit_spec (ts : List Transfer) (s : State) :
    ∃ n fs, n ≤ ts.length ∧ ((transmit ts s).2 = true → n = ts.length) ∧
      ((transmit ts s).2 = false → s.cfg.fallible = true) ∧
      (transmit ts s).1 = { s with
        wire := s.wire ++ ts.take n
        readyIn := samplesAfter n s.readyIn
        failIn := fs } := by
  induction ts generalizing s with
  | nil => exact ⟨0, s.failIn, by simp [transmit, samplesAfter]⟩
  | cons t ts ih =>
    by_cases hf : s.sinkFails = true
    · refine ⟨1, (s.awaited.transfer t).failIn, by simp, by simp [transmit, hf], ?_, ?_⟩
      · intro _
        simp only [State.sinkFails, Bool.and_eq_true] at hf
        exact hf.1
      · simp [transmit, hf, State.transfer, State.awaited, samplesAfter]
    · obtain ⟨n, fs, hn, hok, hfail, heq⟩ := ih (s.awaited.transfer t)
      refine ⟨n + 1, fs, by simp [hn], ?_, ?_, ?_⟩
      · simpa [transmit, hf] using hok
      · simpa [transmit, hf] using hfail
      · simpa [transmit, hf, State.transfer, State.awaited, samplesAfter] using heq

/-- An infallible transport takes every transfer (R152). -/
theorem transmit_infallible (ts : List Transfer) (s : State) (h : s.cfg.fallible = false) :
    transmit ts s =
      ({ s with wire := s.wire ++ ts, readyIn := samplesAfter ts.length s.readyIn }, true) := by
  induction ts generalizing s with
  | nil => simp [transmit, samplesAfter]
  | cons t ts ih =>
    have hf : s.sinkFails = false := by simp [State.sinkFails, h]
    have hi := ih (s.awaited.transfer t) (by simpa using h)
    simp only [transmit, hf, Bool.false_eq_true, if_false, hi]
    simp [h, samplesAfter]

theorem transmit_append (ts₁ ts₂ : List Transfer) (s : State) :
    transmit (ts₁ ++ ts₂) s =
      if (transmit ts₁ s).2 then transmit ts₂ (transmit ts₁ s).1 else ((transmit ts₁ s).1, false) := by
  induction ts₁ generalizing s with
  | nil => simp [transmit]
  | cons t ts ih =>
    by_cases hf : s.sinkFails = true
    · simp [transmit, hf]
    · simp [transmit, hf, ih]

/-- A fallible transport whose coming answers accept every transfer. -/
theorem transmit_accepted (ts : List Transfer) (s : State) (rest : List Bool)
    (h : s.cfg.fallible = true) (ha : s.failIn = List.replicate ts.length false ++ rest) :
    transmit ts s = ({ s with
      wire := s.wire ++ ts
      readyIn := samplesAfter ts.length s.readyIn
      failIn := rest }, true) := by
  induction ts generalizing s with
  | nil =>
    have ha' : s.failIn = rest := by simpa using ha
    subst ha'
    simp [transmit, samplesAfter]
  | cons t ts ih =>
    have ha' : s.failIn = false :: (List.replicate ts.length false ++ rest) := by
      simpa [List.replicate_succ] using ha
    have hf : s.sinkFails = false := by simp [State.sinkFails, ha']
    have hi := ih (s.awaited.transfer t) (by simpa using h) (by simp [h, ha'])
    simp only [transmit, hf, Bool.false_eq_true, if_false, hi]
    simp [samplesAfter]

/-- A fallible transport that fails transfer `k`. -/
theorem transmit_failed (ts : List Transfer) (s : State) (k : Nat) (rest : List Bool)
    (h : s.cfg.fallible = true) (hk : k < ts.length)
    (ha : s.failIn = List.replicate k false ++ true :: rest) :
    transmit ts s = ({ s with
      wire := s.wire ++ ts.take (k + 1)
      readyIn := samplesAfter (k + 1) s.readyIn
      failIn := rest }, false) := by
  induction ts generalizing s k with
  | nil => simp at hk
  | cons t ts ih =>
    cases k with
    | zero =>
      have ha' : s.failIn = true :: rest := by simpa using ha
      have hf : s.sinkFails = true := by simp [State.sinkFails, h, ha']
      simp [transmit, hf, State.transfer, State.awaited, samplesAfter, h, ha']
    | succ k =>
      have ha' : s.failIn = false :: (List.replicate k false ++ true :: rest) := by
        simpa [List.replicate_succ] using ha
      have hf : s.sinkFails = false := by simp [State.sinkFails, ha']
      have hi := ih (s.awaited.transfer t) k (by simpa using h) (by simpa using hk) (by simp [h, ha'])
      simp only [transmit, hf, Bool.false_eq_true, if_false, hi]
      simp [samplesAfter]

/-! ### Samples and answers -/

@[simp] theorem samplesAfter_nil (n : Nat) : samplesAfter n [] = [] := by
  induction n with
  | zero => rfl
  | succ n ih => exact ih

theorem samplesAfter_add (m n : Nat) (samples : List Bool) :
    samplesAfter (m + n) samples = samplesAfter n (samplesAfter m samples) := by
  induction m generalizing samples with
  | zero => simp [samplesAfter]
  | succ m ih => simpa [Nat.succ_add, samplesAfter] using ih _

@[simp] theorem State.sinkFailsAt_zero (s : State) : s.sinkFailsAt 0 = s.sinkFails := by
  cases h : s.failIn <;> simp [State.sinkFailsAt, State.sinkFails, h]

/-- A transfer uses up one answer. -/
theorem State.sinkFailsAt_transfer (s : State) (t : Transfer) (n : Nat) :
    (s.transfer t).sinkFailsAt n = s.sinkFailsAt (n + 1) := by
  cases h : s.cfg.fallible <;> simp [State.sinkFailsAt, State.transfer, h]
  congr 2
  omega

@[simp] theorem State.sinkFailsAt_awaited (s : State) (n : Nat) : s.awaited.sinkFailsAt n = s.sinkFailsAt n := rfl

/-- Sending ends after the first transfer that the sink fails, and goes through where it fails none. -/
theorem transmit_answers (ts : List Transfer) (s : State) :
    ((transmit ts s).2 = true → (∀ n < ts.length, s.sinkFailsAt n = false) ∧
      ∀ n, (transmit ts s).1.sinkFailsAt n = s.sinkFailsAt (ts.length + n)) ∧
    ((transmit ts s).2 = false → ∃ n < ts.length, s.sinkFailsAt n = true ∧
      (∀ m < n, s.sinkFailsAt m = false) ∧ (transmit ts s).1.wire = s.wire ++ ts.take (n + 1)) := by
  induction ts generalizing s with
  | nil => simp [transmit]
  | cons t ts ih =>
    by_cases hf : s.sinkFails = true
    · simp only [transmit, hf, if_true]
      refine ⟨fun h => by simp at h, fun _ => ⟨0, by simp, by simpa using hf, by simp, by simp⟩⟩
    · have hf0 : s.sinkFailsAt 0 = false := by simpa using hf
      obtain ⟨hok, hfail⟩ := ih (s.awaited.transfer t)
      simp only [State.sinkFailsAt_transfer, State.sinkFailsAt_awaited] at hok hfail
      simp only [transmit, hf, Bool.false_eq_true, if_false]
      refine ⟨fun h => ⟨fun n hn => ?_, fun n => ?_⟩, fun h => ?_⟩
      · cases n with
        | zero => exact hf0
        | succ n => exact (hok h).1 n (by simpa using hn)
      · rw [(hok h).2 n]
        congr 1
        simp
        omega
      · obtain ⟨n, hn, ha, hm, hw⟩ := hfail h
        refine ⟨n + 1, by simpa using hn, ha, fun m hmn => ?_, by simpa using hw⟩
        cases m with
        | zero => exact hf0
        | succ m => exact hm m (by omega)

end Sys2Proof.Machine
end

