-- ==== Sys2Proof/Laws/Params.lean ====
section
/-! SUPPORT. Arithmetic of a well-formed configuration (rules R7, R8) and of the address generator. -/

namespace Sys2Proof

theorem Config.WellFormed.perByte_mul_bpp {c : Config} (h : c.WellFormed) : c.perByte * c.bpp = 8 := by
  rcases h.1 with hb | hb | hb | hb <;> simp [Config.perByte, hb]

theorem Config.WellFormed.perByte_pos {c : Config} (h : c.WellFormed) : 0 < c.perByte := by
  rcases h.1 with hb | hb | hb | hb <;> simp [Config.perByte, hb]

theorem Config.WellFormed.rowBytes_mul {c : Config} (h : c.WellFormed) : c.rowBytes * c.perByte = c.width :=
  Nat.div_mul_cancel (Nat.dvd_of_mod_eq_zero h.2.1)

theorem Config.WellFormed.rowBytes_pos {c : Config} (h : c.WellFormed) : 0 < c.rowBytes := by
  have hm := h.rowBytes_mul
  have hw := h.2.2.1
  rcases Nat.eq_zero_or_pos c.rowBytes with h0 | h0
  · rw [h0] at hm
    omega
  · exact h0

theorem Config.WellFormed.fbBytes_pos {c : Config} (h : c.WellFormed) : 0 < c.fbBytes :=
  Nat.mul_pos h.2.2.2.2.1 h.rowBytes_pos

theorem Config.WellFormed.maxNative_le {c : Config} (h : c.WellFormed) : c.maxNative ≤ 255 := by
  rcases h.1 with hb | hb | hb | hb <;> simp [Config.maxNative, hb]

namespace Machine

theorem inRange_iff {c : Config} {x y : Coord} :
    inRange c x y = true ↔ 0 ≤ x.toInt ∧ x.toInt < c.width ∧ 0 ≤ y.toInt ∧ y.toInt < c.height := by
  simp [inRange]

/-- A coordinate that is not negative is its own unsigned reading. -/
theorem toInt_of_nonneg {x : Coord} (h : 0 ≤ x.toInt) : x.toInt = x.toNat := by
  have := BitVec.toInt_eq_toNat_cond x
  split at this
  · exact this
  · have hx := x.isLt
    omega

theorem inRange_toNat {c : Config} {x y : Coord} (h : inRange c x y = true) :
    x.toNat < c.width ∧ y.toNat < c.height := by
  obtain ⟨hx0, hx, hy0, hy⟩ := inRange_iff.mp h
  rw [toInt_of_nonneg hx0] at hx
  rw [toInt_of_nonneg hy0] at hy
  omega

/-- An in-range pixel lies inside `storage` (R41, R50). -/
theorem addr_lt {c : Config} (hc : c.WellFormed) {x y : Coord} (h : inRange c x y = true) :
    addr c x y < c.fbBytes := by
  obtain ⟨hx, hy⟩ := inRange_toNat h
  have hq : x.toNat / c.perByte < c.rowBytes := by
    rw [Nat.div_lt_iff_lt_mul hc.perByte_pos, hc.rowBytes_mul]
    exact hx
  unfold addr Config.fbBytes
  calc y.toNat * c.rowBytes + x.toNat / c.perByte < y.toNat * c.rowBytes + c.rowBytes := by omega
    _ = (y.toNat + 1) * c.rowBytes := by ring
    _ ≤ c.height * c.rowBytes := Nat.mul_le_mul_right _ hy

theorem fsel_lt {c : Config} (hc : c.WellFormed) (x : Coord) : fsel c x < c.perByte :=
  Nat.mod_lt _ hc.perByte_pos

end Machine

end Sys2Proof
end

