-- ==== Sys2Proof/Laws/Ops.lean ====
section
/-! SUPPORT. What each shared operation can do, said once: the guard on the configuration, the checked
accesses, completion, and a byte offered to the sink. -/

namespace Sys2Proof.Machine

variable {s t : State} {k : Host.Outcome State Fault Refusal}

theorem configured_of (h : s.cfg.WellFormed) : configured s k = k := if_pos h

theorem configured_refuses (h : ¬ s.cfg.WellFormed) : configured s k = .refused .badConfiguration := if_neg h

theorem configured_next (h : configured s k = .next t) : s.cfg.WellFormed ∧ k = .next t := by
  unfold configured at h
  split at h
  · exact ⟨‹_›, h⟩
  · cases h

theorem memRead_of {a : Nat} {next : Byte → Host.Outcome State Fault Refusal} (h : a < s.cfg.fbBytes) :
    memRead s a next = next (s.readByte a) := if_pos h

theorem memRead_next {a : Nat} {next : Byte → Host.Outcome State Fault Refusal}
    (h : memRead s a next = .next t) : a < s.cfg.fbBytes ∧ next (s.readByte a) = .next t := by
  unfold memRead at h
  split at h
  · exact ⟨‹_›, h⟩
  · cases h

theorem memWrite_of {a : Nat} {v : Byte} (h : a < s.cfg.fbBytes) :
    memWrite s a v = .next (s.withStorage (s.storage.write a v)) := if_pos h

theorem memWrite_next {a : Nat} {v : Byte} (h : memWrite s a v = .next t) :
    a < s.cfg.fbBytes ∧ t = s.withStorage (s.storage.write a v) := by
  unfold memWrite at h
  split at h
  · cases h
    exact ⟨‹_›, rfl⟩
  · cases h

theorem finish_idle (h : s.phase = .idle) : finish (.next s) = .next s.complete :=
  congrArg Host.Outcome.next (if_pos h)

theorem finish_walking (h : s.phase ≠ .idle) : finish (.next s) = .next s :=
  congrArg Host.Outcome.next (if_neg h)

theorem finish_next (h : finish k = .next t) :
    ∃ u, k = .next u ∧ t = if u.phase = .idle then u.complete else u := by
  cases k with
  | next u =>
    cases h
    exact ⟨u, rfl, rfl⟩
  | fault r => cases h
  | refused r => cases h

/-- The zero-fill before its last byte. -/
theorem zeroStep_more (h : s.cursor + 1 < s.cfg.fbBytes) :
    zeroStep s = .next { s with storage := s.storage.write s.cursor 0, cursor := s.cursor + 1 } := by
  have hn : ¬ s.cursor = s.cfg.fbBytes - 1 := by omega
  rw [zeroStep, memWrite_of (by omega)]
  exact if_neg hn

/-- The zero-fill's last byte. -/
theorem zeroStep_last (h : s.cursor + 1 = s.cfg.fbBytes) :
    zeroStep s = .next { s with
      storage := s.storage.write s.cursor 0
      status := { s.status with initDone := true }
      cursor := 0
      phase := .fColCmd } := by
  have he : s.cursor = s.cfg.fbBytes - 1 := by omega
  rw [zeroStep, memWrite_of (by omega)]
  exact if_pos he

/-- What offering a byte does: the sink stalls, fails, or takes it; only its inputs and the walk change. -/
theorem offerByte_next {b : Transfer} (h : offerByte b s = .next t) :
    let s' := { s with readyIn := s.readyIn.tail }
    (s.readyIn.head?.getD s.readyAfter = false ∧ t = s') ∨
    (s.readyIn.head?.getD s.readyAfter = true ∧ s.sinkFails = true ∧ t = (s'.transfer b).failTransfer) ∨
    (s.readyIn.head?.getD s.readyAfter = true ∧ s.sinkFails = false ∧ t = (s'.transfer b).afterByte) := by
  unfold offerByte at h
  cases hr : s.readyIn.head?.getD s.readyAfter <;> cases hf : s.sinkFails <;>
    simp_all only [Bool.false_eq_true, if_false, if_true, Host.Outcome.next.injEq] <;>
    simp

end Sys2Proof.Machine
end

