-- ==== Sys2Proof/Laws/Datapath.lean ====
section
/-! SUPPORT. The datapath bit by bit (rules R42, R86 to R89): what each bit of a placed, masked, extracted or
merged byte is. -/

namespace Sys2Proof.Machine

variable {c : Config}

/-- A native value has no bit at or above `BPP`. -/
theorem getLsbD_of_le_maxNative {q : Byte} (hq : q.toNat ≤ c.maxNative) {n : Nat}
    (hn : c.bpp ≤ n) : q.getLsbD n = false := by
  have hlt : q.toNat < 2 ^ c.bpp := by
    have : 0 < 2 ^ c.bpp := Nat.two_pow_pos _
    simp only [Config.maxNative] at hq
    omega
  rw [BitVec.getLsbD, Nat.testBit_lt_two_pow]
  exact Nat.lt_of_lt_of_le hlt (Nat.pow_le_pow_right (by omega) hn)

theorem getLsbD_maxNative (h : c.WellFormed) (n : Nat) :
    (BitVec.ofNat 8 c.maxNative).getLsbD n = decide (n < c.bpp) := by
  rw [BitVec.getLsbD_ofNat]
  simp only [Config.maxNative, Nat.testBit_two_pow_sub_one]
  rcases h.1 with hb | hb | hb | hb <;> rw [hb] <;> by_cases h8 : n < 8 <;> simp [h8] <;> omega

theorem place_getLsbD (q : Byte) (k n : Nat) (hn : n < 8) :
    (place c q k).getLsbD n = (decide (shiftAmount c k ≤ n) && q.getLsbD (n - shiftAmount c k)) := by
  simp only [place, BitVec.getLsbD_shiftLeft, hn, decide_true, Bool.true_and]
  by_cases hs : n < shiftAmount c k
  · simp [hs]
  · simp [hs, Nat.le_of_not_lt hs]

theorem mask_getLsbD (h : c.WellFormed) (k n : Nat) (hn : n < 8) :
    (mask c k).getLsbD n = decide (shiftAmount c k ≤ n ∧ n < shiftAmount c k + c.bpp) := by
  rw [mask, place_getLsbD _ _ _ hn, getLsbD_maxNative h]
  by_cases hs : shiftAmount c k ≤ n <;> simp [hs]
  omega

theorem extract_getLsbD (h : c.WellFormed) (b : Byte) (k n : Nat) :
    (extract c b k).getLsbD n = (b.getLsbD (shiftAmount c k + n) && decide (n < c.bpp)) := by
  simp [extract, getLsbD_maxNative h]

theorem insert_getLsbD (h : c.WellFormed) (b q : Byte) (k n : Nat) (hn : n < 8) (hq : q.toNat ≤ c.maxNative) :
    (insert c b k q).getLsbD n =
      if shiftAmount c k ≤ n ∧ n < shiftAmount c k + c.bpp then q.getLsbD (n - shiftAmount c k)
      else b.getLsbD n := by
  simp only [insert, BitVec.getLsbD_or, BitVec.getLsbD_and, BitVec.getLsbD_not, mask_getLsbD h k n hn,
    place_getLsbD q k n hn, hn]
  by_cases hs : shiftAmount c k ≤ n
  · by_cases ht : n < shiftAmount c k + c.bpp
    · simp [hs, ht]
    · have hz : q.getLsbD (n - shiftAmount c k) = false := getLsbD_of_le_maxNative hq (by omega)
      simp [hs, ht, hz]
  · simp [hs]

/-- A field lies inside the byte. -/
theorem shiftAmount_add_le (h : c.WellFormed) {k : Nat} (hk : k < c.perByte) : shiftAmount c k + c.bpp ≤ 8 := by
  rcases h.1 with hb | hb | hb | hb <;> simp only [shiftAmount, Config.perByte, hb] at * <;> omega

/-- Different fields do not overlap. -/
theorem shiftAmount_disjoint (h : c.WellFormed) {j k : Nat} (hj : j < c.perByte) (hk : k < c.perByte)
    (hjk : j ≠ k) :
    shiftAmount c j + c.bpp ≤ shiftAmount c k ∨ shiftAmount c k + c.bpp ≤ shiftAmount c j := by
  rcases h.1 with hb | hb | hb | hb <;> simp only [shiftAmount, Config.perByte, hb] at * <;> omega

/-- Every bit of a byte lies in a field. -/
theorem exists_field (h : c.WellFormed) {n : Nat} (hn : n < 8) :
    ∃ k < c.perByte, shiftAmount c k ≤ n ∧ n < shiftAmount c k + c.bpp := by
  refine ⟨c.perByte - 1 - n / c.bpp, ?_⟩
  rcases h.1 with hb | hb | hb | hb <;> simp only [shiftAmount, Config.perByte, hb] at * <;> omega

/-- Bytes whose fields agree are equal. -/
theorem byte_ext (h : c.WellFormed) {a b : Byte} (hf : ∀ k < c.perByte, extract c a k = extract c b k) :
    a = b := by
  apply BitVec.eq_of_getLsbD_eq
  intro n hn
  obtain ⟨k, hk, hlo, hhi⟩ := exists_field h hn
  have he := congrArg (fun v => BitVec.getLsbD v (n - shiftAmount c k)) (hf k hk)
  simp only [extract_getLsbD h] at he
  have hd : decide (n - shiftAmount c k < c.bpp) = true := by simp; omega
  simpa [hd, Nat.add_sub_cancel' hlo] using he

theorem quant_le (h : c.WellFormed) (i : Byte) : (quant c i).toNat ≤ c.maxNative := by
  have hm := h.maxNative_le
  simp only [quant, BitVec.toNat_ofNat]
  exact Nat.le_trans (Nat.mod_le _ _) Nat.and_le_right

end Sys2Proof.Machine
end

