-- ==== Sys2Proof/Laws/Decode.lean ====
section
/-! SUPPORT. Reading the fields of a word made of fields, and a word from its fields. -/

namespace Sys2Proof

section

variable (op rsv : BitVec 4) (i : Byte) (y x : Coord)

theorem wordOfFields_toNat :
    (wordOfFields op rsv i y x).toNat =
      op.toNat * 2 ^ 44 + rsv.toNat * 2 ^ 40 + i.toNat * 2 ^ 32 + y.toNat * 2 ^ 16 + x.toNat := by
  simp only [wordOfFields, BitVec.toNat_append]
  rw [← Nat.shiftLeft_add_eq_or_of_lt x.isLt, ← Nat.shiftLeft_add_eq_or_of_lt y.isLt,
    ← Nat.shiftLeft_add_eq_or_of_lt i.isLt, ← Nat.shiftLeft_add_eq_or_of_lt rsv.isLt]
  simp only [Nat.shiftLeft_eq]
  ring

@[simp] theorem fieldOp_wordOfFields : fieldOp (wordOfFields op rsv i y x) = op := by
  apply BitVec.eq_of_toNat_eq
  have := op.isLt; have := rsv.isLt; have := i.isLt; have := y.isLt; have := x.isLt
  simp only [fieldOp, BitVec.extractLsb'_toNat, wordOfFields_toNat, Nat.shiftRight_eq_div_pow]
  omega

@[simp] theorem fieldRsv_wordOfFields : fieldRsv (wordOfFields op rsv i y x) = rsv := by
  apply BitVec.eq_of_toNat_eq
  have := op.isLt; have := rsv.isLt; have := i.isLt; have := y.isLt; have := x.isLt
  simp only [fieldRsv, BitVec.extractLsb'_toNat, wordOfFields_toNat, Nat.shiftRight_eq_div_pow]
  omega

@[simp] theorem fieldI_wordOfFields : fieldI (wordOfFields op rsv i y x) = i := by
  apply BitVec.eq_of_toNat_eq
  have := op.isLt; have := rsv.isLt; have := i.isLt; have := y.isLt; have := x.isLt
  simp only [fieldI, BitVec.extractLsb'_toNat, wordOfFields_toNat, Nat.shiftRight_eq_div_pow]
  omega

@[simp] theorem fieldY_wordOfFields : fieldY (wordOfFields op rsv i y x) = y := by
  apply BitVec.eq_of_toNat_eq
  have := op.isLt; have := rsv.isLt; have := i.isLt; have := y.isLt; have := x.isLt
  simp only [fieldY, BitVec.extractLsb'_toNat, wordOfFields_toNat, Nat.shiftRight_eq_div_pow]
  omega

@[simp] theorem fieldX_wordOfFields : fieldX (wordOfFields op rsv i y x) = x := by
  apply BitVec.eq_of_toNat_eq
  have := op.isLt; have := rsv.isLt; have := i.isLt; have := y.isLt; have := x.isLt
  simp only [fieldX, BitVec.extractLsb'_toNat, wordOfFields_toNat, Nat.shiftRight_eq_div_pow]
  omega

end

/-- Every word is the word of its own fields. -/
theorem wordOfFields_fields (w : Word) :
    wordOfFields (fieldOp w) (fieldRsv w) (fieldI w) (fieldY w) (fieldX w) = w := by
  apply BitVec.eq_of_toNat_eq
  have := w.isLt
  simp only [wordOfFields_toNat, fieldOp, fieldRsv, fieldI, fieldY, fieldX, BitVec.extractLsb'_toNat,
    Nat.shiftRight_eq_div_pow]
  omega

/-- The opcode table's mask keeps `op` and `rsv` (R61). -/
theorem and_tableMask (w : Word) : w &&& tableMask = wordOfFields (fieldOp w) (fieldRsv w) 0 0 0 := by
  have hs : w &&& tableMask = (w >>> 40) <<< 40 := by
    unfold tableMask
    ext k hk
    interval_cases k <;> simp
  apply BitVec.eq_of_toNat_eq
  have := w.isLt
  simp only [hs, wordOfFields_toNat, fieldOp, fieldRsv, BitVec.extractLsb'_toNat, BitVec.toNat_shiftLeft,
    BitVec.toNat_ushiftRight, Nat.shiftRight_eq_div_pow, Nat.shiftLeft_eq, BitVec.ofNat_eq_ofNat, BitVec.toNat_zero]
  omega

end Sys2Proof
end

