-- ==== Sys2Proof/Laws/PerInstr.lean ====
section
/-! SUPPORT. The family `TableRow`: the word the encoder writes for an instruction is one of the words of
its opcode-table row (rule R61). -/

namespace Sys2Proof.Laws.TableRow

/-- The canonical word agrees with the row's `match` under the mask. -/
def Statement (i : Instr) : Prop := encode i &&& tableMask = tableMatch i

theorem mask_word (op : BitVec 4) (i : Byte) (y x : Coord) :
    wordOfFields op 0 i y x &&& tableMask = wordOfFields op 0 0 0 0 := by
  simp [and_tableMask]

theorem nop : Statement .nop := mask_word 0 0 0 0

theorem init : Statement .init := mask_word 1 0 0 0

theorem setPixel (x y : Coord) (i : Byte) : Statement (.setPixel x y i) := mask_word 2 i y x

theorem fill (i : Byte) : Statement (.fill i) := mask_word 3 i 0 0

theorem flush : Statement .flush := mask_word 4 0 0 0

theorem getPixel (x y : Coord) : Statement (.getPixel x y) := mask_word 5 0 y x

end Sys2Proof.Laws.TableRow
end

