-- ==== Sys2Proof/Laws/Run.lean ====
section
/-! SUPPORT. Runs of many steps: one step and then the rest, runs in two parts, a state that steps to itself; and
what a step is while `rst` stays low. -/

namespace Sys2Proof.Machine

variable {s t u : State}

theorem run_zero (s : State) : Sys2Proof.core.run 0 s = .next s := rfl

theorem core_run_succ (M : Host.Core) (n : Nat) {s t : M.State} (h : M.step s = .next t) :
    M.run (n + 1) s = M.run n t := by
  rw [Host.Core.run, h]

theorem core_run_succ_next (M : Host.Core) {n : Nat} {s u : M.State} (h : M.run (n + 1) s = .next u) :
    ∃ t, M.step s = .next t ∧ M.run n t = .next u := by
  rw [Host.Core.run] at h
  split at h
  · exact ⟨_, ‹_›, h⟩
  · cases h
  · cases h

theorem run_succ_of_next (n : Nat) (h : step s = .next t) :
    Sys2Proof.core.run (n + 1) s = Sys2Proof.core.run n t := core_run_succ Sys2Proof.core n h

theorem run_succ_next {n : Nat} (h : Sys2Proof.core.run (n + 1) s = .next u) :
    ∃ t : State, step s = .next t ∧ Sys2Proof.core.run n t = .next u := core_run_succ_next Sys2Proof.core h

/-- A run in two parts. -/
theorem run_add {m : Nat} (n : Nat) (h : Sys2Proof.core.run m s = .next t) :
    Sys2Proof.core.run (m + n) s = Sys2Proof.core.run n t := by
  induction m generalizing s with
  | zero =>
    cases h
    rw [Nat.zero_add]
  | succ m ih =>
    obtain ⟨t', hs, hr⟩ := run_succ_next h
    rw [Nat.succ_add, run_succ_of_next _ hs]
    exact ih hr

/-- A state that a step leaves as it is stays for ever. -/
theorem run_of_fixed (h : step s = .next s) (n : Nat) : Sys2Proof.core.run n s = .next s := by
  induction n with
  | zero => rfl
  | succ n ih => rw [run_succ_of_next n h, ih]

/-- With `rst` never asserted again, a step of a well-formed configuration is `runStep`. -/
theorem step_of_no_reset (hc : s.cfg.WellFormed) (hr : s.rstIn = []) : step s = runStep s := by
  have hp : s.popRst = s := by
    cases s
    simp_all [State.popRst]
  have ha : s.rstAsserted = false := by simp [State.rstAsserted, hr]
  rw [step, machineStep, configured_of hc, ha, hp]
  rfl

end Sys2Proof.Machine
end

