-- ==== Sys2Proof/Tests/Slice0.lean ====
section
/-! SUPPORT. Tests against the spec's own examples (95_test_vectors.md), the smoke tests of the checks, and a
witness for the hypotheses of each statement. -/

namespace Sys2Proof.Tests

open Sys2Proof.Machine

/-! ### Helpers -/

/-- The configuration of program P4. -/
def tinyConfig : Config where
  width := 8
  height := 2
  bpp := 4
  colMin := 0x1C
  colMax := 0x1D
  cmdSetCol := 0x15
  cmdSetRow := 0x75
  cmdWriteRam := 0x5C
  initSeq := [(0xFD, [0x12]), (0xA0, [0x14, 0x11]), (0xAF, [])]
  fallible := false
  colBytes := 2

/-- A configuration of another depth and size. -/
def sized (w h b : Nat) : Config := { tinyConfig with width := w, height := h, bpp := b }

/-- The reset state of a configuration, with given bytes in `storage` from address 0 on. -/
def holding (c : Config) (bytes : List Byte) : State :=
  { State.reset with
    cfg := c
    storage := ⟨(List.range bytes.length).zip bytes⟩ }

/-- The frame P4 ends with. -/
def p4Bytes : List Byte := [0xF0, 0x05, 0x00, 0x00, 0x00, 0x00, 0x10, 0x07]

/-- P4 before its FLUSH. -/
def p4 : State := { holding tinyConfig p4Bytes with status := ⟨true, false, false, false, false⟩ }

/-- P4 with a transport that can fail. -/
def p4Fallible (answers : List Bool) : State :=
  { p4 with
    cfg := { tinyConfig with fallible := true }
    failIn := answers }

/-- The next state of a command, if it answers one. -/
def after (i : Instr) (s : State) : Option State :=
  match exec i s with
  | .next t => some t
  | .fault _ => none
  | .refused _ => none

/-- The next state of a step, if it answers one. -/
def stepped (s : State) : Option State :=
  match step s with
  | .next t => some t
  | .fault _ => none
  | .refused _ => none

/-- P4 with a word presented. -/
def p4With (w : Word) (v : View) : State :=
  { p4 with
    program := [w]
    view := v }

/-- P4 in the middle of a walk. -/
def p4At (p : Phase) (cursor : Nat) : State :=
  { p4 with
    opCode := 4
    phase := p
    cursor := cursor
    status := ⟨true, true, false, false, false⟩ }

/-! ### Decoding: words written out from R60, R61 and 95_test_vectors.md 2.2, 2.3, 2.6 -/

theorem test_decode_nop : decode 0x00FFFFFFFFFF = .legal .nop := by decide

theorem test_decode_init : decode 0x10ABCDEF0123 = .legal .init := by decide

/-- `op` 0010, `rsv` 0000, `i` 10000000, `y` 63, `x` 255. -/
theorem test_decode_setPixel :
    decode 0b001000001000000000000000001111110000000011111111 = .legal (.setPixel 255 63 128) := by decide

theorem test_decode_setPixel_negative : decode 0x20FFFFFFFFFF = .legal (.setPixel (-1) (-1) 255) := by decide

theorem test_decode_fill : decode 0x30FF12345678 = .legal (.fill 255) := by decide

theorem test_decode_flush : decode 0x400000000000 = .legal .flush := by decide

theorem test_decode_getPixel : decode 0x50FF00000001 = .legal (.getPixel 1 0) := by decide

theorem test_decode_reserved_opcodes :
    decode 0x600000000000 = .illegal .reservedOpcode ∧ decode 0xF00000000000 = .illegal .reservedOpcode := by
  decide

theorem test_decode_reserved_field :
    decode 0x210000000000 = .illegal .reservedField ∧ decode 0x0F0000000000 = .illegal .reservedField ∧
      decode 0xFFFFFFFFFFFF = .illegal .reservedField := by decide

theorem test_encode_examples :
    encode (.setPixel 7 5 200) = 0x20C800050007 ∧ encode (.getPixel 255 63) = 0x5000003F00FF ∧
      encode (.fill 17) = 0x301100000000 := by decide

theorem test_tableWord_decodes : decodeTableWord 48 0x20FF00000000 = some (.setPixel 0 0 255) := by decide

/-! ### The checks: a configuration and an assembly term that each condition refuses (R7, R73, R74) -/

theorem smoke_configuration_accepted :
    Config.theInstance.WellFormed ∧ (sized 8 1 1).WellFormed ∧ (sized 8 1 2).WellFormed ∧
      (sized 4 2 8).WellFormed ∧ (sized 32766 256 4).WellFormed := by decide

theorem smoke_configuration_depth : ¬ (sized 8 2 3).WellFormed ∧ ¬ (sized 8 2 0).WellFormed := by decide

theorem smoke_configuration_partial_byte : ¬ (sized 7 2 4).WellFormed := by decide

theorem smoke_configuration_no_column : ¬ (sized 0 2 4).WellFormed := by decide

theorem smoke_configuration_wide : ¬ (sized 32768 2 4).WellFormed := by decide

theorem smoke_configuration_no_row : ¬ (sized 8 0 4).WellFormed := by decide

theorem smoke_configuration_tall : ¬ (sized 8 257 4).WellFormed := by decide

theorem smoke_coordinate :
    Asm.wellFormed tinyConfig (.setPixel 32768 0 0) = false ∧
      Asm.wellFormed tinyConfig (.getPixel 0 (-32769)) = false ∧
      Asm.wellFormed tinyConfig (.setPixel (-32768) 32767 255) = true := by decide

theorem smoke_intensity :
    Asm.wellFormed tinyConfig (.fill 256) = false ∧ Asm.wellFormed tinyConfig (.fill (-1)) = false := by decide

theorem smoke_native :
    Asm.wellFormed tinyConfig (.setNative 0 0 16) = false ∧
      Asm.wellFormed tinyConfig (.setNative 0 0 15) = true := by decide

theorem test_assemble :
    assemble tinyConfig .clear = some (.fill 0) ∧
      assemble tinyConfig (.setNative (-1) 3 7) = some (.setPixel (-1) 3 119) := by decide

/-! ### The datapath: 95_test_vectors.md 2.1 to 2.4 -/

theorem test_quant_bpp4 :
    [0, 16, 17, 100, 128, 136, 254, 255].map (quant tinyConfig) = [0, 0, 1, 5, 7, 8, 14, 15] := by decide

theorem test_quant_other_depths :
    [84, 85, 169, 170, 254, 255].map (quant (sized 8 1 2)) = [0, 1, 1, 2, 2, 3] ∧
      [254, 255].map (quant (sized 8 1 1)) = [0, 1] ∧ quant (sized 4 2 8) 200 = 200 := by decide

theorem test_bounds :
    inRange Config.theInstance 255 63 = true ∧ inRange Config.theInstance 256 0 = false ∧
      inRange Config.theInstance (-1) 0 = false ∧ inRange Config.theInstance 0 64 = false ∧
      inRange Config.theInstance (-32768) 0 = false := by decide

theorem test_addr :
    addr Config.theInstance 255 63 = 8191 ∧ addr Config.theInstance 129 32 = 4160 ∧
      addr Config.theInstance 7 5 = 643 ∧ Config.theInstance.addrWidth = 13 := by decide

theorem test_extract :
    [0, 1].map (extract tinyConfig 0xA5) = [0xA, 0x5] ∧
      [0, 1, 2, 3].map (extract (sized 8 1 2) 0xA5) = [2, 2, 1, 1] ∧
      (List.range 8).map (extract (sized 8 1 1) 0xA5) = [1, 0, 1, 0, 0, 1, 0, 1] := by decide

theorem test_fill_pattern :
    pattern (sized 8 1 1) (quant (sized 8 1 1) 255) = 0xFF ∧
      pattern (sized 8 1 2) (quant (sized 8 1 2) 170) = 0xAA ∧
      pattern tinyConfig (quant tinyConfig 128) = 0x77 ∧
      pattern (sized 4 2 8) (quant (sized 4 2 8) 84) = 0x54 := by decide

theorem test_phase_codes :
    [Phase.idle, .initSeq, .zero, .fColCmd, .fColMin, .fColMax, .fRowCmd, .fRowMin, .fRowMax, .fWram,
      .fStream].map Phase.code = [0, 1, 2, 3, 4, 5, 6, 7, 8, 9, 10] := by decide

theorem test_error_codes :
    [ErrorFlag.illegal, .noinit, .xfer].map ErrorFlag.code = [1, 2, 3] ∧
      [ErrorFlag.illegal, .noinit, .xfer].map ErrorFlag.bit = [2, 3, 4] := by decide

/-! ### The commands -/

theorem test_nop : after .nop p4 = some p4 := by decide

/-- 2.3, from 0xFF: `2, 1, 128` at address 129 leaves the low field. -/
theorem test_setPixel_merges :
    (after (.setPixel 2 1 128) { State.reset with storage := ⟨[(129, 0xFF)]⟩ }).map State.storage =
      some ⟨[(129, 0x7F)]⟩ := by decide

/-- P6, line 6: BPP 1, `SETPIXEL 0, 0, 254` clears bit 7. -/
theorem test_setPixel_one_bit :
    (after (.setPixel 0 0 254) (holding (sized 8 1 1) [0x91])).map State.storage = some ⟨[(0, 0x11)]⟩ := by
  decide

/-- P7, line 10. -/
theorem test_fill :
    (after (.fill 100) (holding (sized 8 1 2) [0x24, 0x20])).map State.storage =
      some ⟨[(0, 0x55), (1, 0x55)]⟩ := by decide

/-- P4, line 7. -/
theorem test_getPixel : (after (.getPixel 3 0) p4).map State.respPort = some 0x105 := by decide

/-- 2.5: out of range after a hit. -/
theorem test_getPixel_miss :
    (after (.getPixel 8 0) { p4 with resp := ⟨true, 5⟩ }).map State.respPort = some 0x000 := by decide

/-- P4, line 8: the flattened trace of its FLUSH. -/
theorem test_flush_wire :
    (after .flush p4).map (fun t => flattened t.wire) =
      some [(false, 0x15), (true, 0x1C), (true, 0x1D), (false, 0x75), (true, 0x00), (true, 0x01),
        (false, 0x5C), (true, 0xF0), (true, 0x05), (true, 0x00), (true, 0x00), (true, 0x00), (true, 0x00),
        (true, 0x10), (true, 0x07)] := by decide

/-- P4's last lines: what the device then holds under R126. -/
theorem test_flush_panel :
    (after .flush p4).map (fun t => [(0, 0), (0, 1), (1, 2), (1, 3)].map fun p => t.panelByte p.1 p.2) =
      some [some 0xF0, some 0x05, some 0x10, some 0x07] := by decide

/-- P4, line 1: INIT's trace. -/
theorem test_init_trace :
    (after .init p4).map State.trace =
      some [.cmd 0xFD, .data 0x12, .cmd 0xA0, .data 0x14, .data 0x11, .cmd 0xAF, .cmd 0x15, .data 0x1C,
        .data 0x1D, .cmd 0x75, .data 0x00, .data 0x01, .cmd 0x5C, .bulk [0, 0, 0, 0, 0, 0, 0, 0]] := by
  decide

theorem test_init_state :
    (after .init (holding tinyConfig p4Bytes)).map (fun t => (t.statusPort, t.streamBytes)) =
      some (0x01, [0, 0, 0, 0, 0, 0, 0, 0]) := by decide

/-- P5, line 1. -/
theorem test_step_flush_before_init :
    (stepped (State.reset.withFetchWord 48 0x400000000000)).map (fun t => (t.statusPort, t.wire)) =
      some (0x08, []) := by decide

/-- P5, line 3: not a SETPIXEL. -/
theorem test_step_illegal :
    (stepped (State.reset.withFetchWord 48 0x210000000000)).map (fun t => (t.statusPort, t.storage)) =
      some (0x04, ⟨[]⟩) := by decide

/-- R125: the third transfer of a flush fails. -/
theorem test_failed_flush :
    (after .flush (p4Fallible [false, false, true])).map (fun t => (t.statusPort, flattened t.wire)) =
      some (0x11, [(false, 0x15), (true, 0x1C), (true, 0x1D)]) := by decide

/-- R121: INIT accepted in the small-step view. -/
theorem test_small_step_accepts :
    (stepped (p4With 0x100000000000 .smallStep)).map (fun t => (t.phase, t.cursor, t.statusPort)) =
      some (.initSeq, 0, 0x03) := by decide

/-- R121: the last byte of the stream. -/
theorem test_small_step_last_byte :
    (stepped (p4At .fStream 7)).map (fun t => (t.phase, t.statusPort, t.wire)) =
      some (.idle, 0x01, [⟨true, true, true, 0x07⟩]) := by decide

/-- R186, U13: a sink that takes no byte any more leaves FLUSH busy at its first byte, in the big-step view. -/
theorem test_dead_sink :
    (stepped { p4With 0x400000000000 .bigStep with readyAfter := false }).map
        (fun t => (t.phase, t.statusPort, t.wire, t.txOffer)) =
      some (.fColCmd, 0x03, [], some ⟨false, false, false, 0x15⟩) := by decide

/-- R32: a stall of the sink uses up its sample, in the big-step view too. -/
theorem test_big_step_stalls :
    (after .flush { p4 with readyIn := [false, true, false, false, true, true] ++ List.replicate 12 true ++
        [false] }).map State.readyIn = some [false] := by decide

/-- Log 12: a set-column command cut off after one byte leaves the window unknown. -/
theorem test_cut_window_command :
    (Device.after tinyConfig (transfersOf [.cmd 0x15, .data 0, .data 1, .cmd 0x15, .data 0, .cmd 0x5C])).cmax =
      none := by decide

/-! ### Witnesses: a state and operands that meet the hypotheses of each statement -/

/-- The frame of P4 specifies every byte. -/
theorem p4_specified : ∀ a < tinyConfig.fbBytes, ((holding tinyConfig p4Bytes).storage.lookup a).isSome := by
  intro a ha
  have h8 : a < 8 := ha
  interval_cases a <;> rfl

/-- Any state over the frame of P4 in a phase other than the zero-fill meets the invariant if its registers
do. -/
theorem runInv_over_p4 {s : State} (hm : s.storage = (holding tinyConfig p4Bytes).storage)
    (hc : s.cfg = tinyConfig ∨ s.cfg = { tinyConfig with fallible := true }) (hp : s.phase ≠ .zero)
    (hi : s.phase ≠ .initSeq) (hx : s.status.errXfer = false) (hr : s.resp = ⟨false, 0⟩)
    (hf : s.status.busy = false → s.phase = .idle) (hl : s.status.busy = true → s.latched = .legal .flush)
    (hw : s.phase ≠ .idle → s.latched = .legal .flush) (hcur : s.cursorInBounds)
    (hd : s.phase.flushing = true → s.status.initDone = true) : RunInv s := by
  have hfb : s.cfg.fbBytes = tinyConfig.fbBytes := by
    rcases hc with h | h
    · rw [h]
    · rw [h]
      rfl
  refine ⟨?_, ?_, ?_, hf, fun hb => ⟨_, hl hb⟩, fun h => .inr (hw h), fun h => ?_, hcur, hd, ?_, ?_, ?_, ?_,
    fun h => absurd h hp⟩
  · rcases hc with h | h <;> rw [h] <;> decide
  · rw [hm]
    decide
  · rw [hm, hfb]
    decide
  · exact h.elim (fun h => absurd h hi) fun h => absurd h hp
  · intro h
    rw [hx] at h
    cases h
  · intro _
    rw [hr]
  · rw [hr]
    exact Nat.zero_le _
  · intro _
    rw [hm, hfb]
    exact p4_specified

theorem p4_runInv : RunInv p4 :=
  runInv_over_p4 rfl (.inl rfl) (by decide) (by decide) rfl rfl (fun _ => rfl) (by decide) (by decide) rfl
    (by decide)

/-- P4 idle, with a word presented. -/
theorem p4With_runInv (w : Word) (v : View) : RunInv (p4With w v) :=
  runInv_over_p4 rfl (.inl rfl) (show Phase.idle ≠ .zero by decide) (show Phase.idle ≠ .initSeq by decide) rfl
    rfl (fun _ => rfl) (fun h => by cases h) (fun h => absurd rfl h) rfl (fun h => by cases h)

/-- A FLUSH before INIT, presented. -/
theorem early_flush_runInv : RunInv { holding tinyConfig p4Bytes with program := [0x400000000000] } :=
  runInv_over_p4 rfl (.inl rfl) (by decide) (by decide) rfl rfl (fun _ => rfl) (by decide) (by decide) rfl
    (by decide)

/-- A FLUSH presented to a block whose transport fails the first transfer. -/
theorem failing_flush_runInv : RunInv { p4Fallible [true] with program := [0x400000000000] } :=
  runInv_over_p4 rfl (.inr rfl) (by decide) (by decide) rfl rfl (fun _ => rfl) (by decide) (by decide) rfl
    (by decide)

/-- The first byte of a FLUSH, which the transport fails. -/
theorem failing_byte_runInv :
    RunInv { p4At .fColCmd 0 with cfg := { tinyConfig with fallible := true }, failIn := [true] } :=
  runInv_over_p4 rfl (.inr rfl) (by decide) (by decide) rfl rfl (by decide) (by decide) (by decide) rfl
    (by decide)

/-- The last byte of a FLUSH: a busy block. -/
theorem p4At_runInv : RunInv (p4At .fStream 7) :=
  runInv_over_p4 rfl (.inl rfl) (by decide) (by decide) rfl rfl (by decide) (by decide) (by decide)
    (show (7 : Nat) < 8 by decide) (by decide)

theorem witness_OnlyIllFormedConfigurationsRefused :
    ¬ (holding (sized 8 257 4) []).cfg.WellFormed ∧ (holding (sized 8 256 4) []).cfg.WellFormed := by decide

/-- ResetInputTakesEffect, ResetLeavesStorageFree. -/
theorem witness_ResetInputTakesEffect :
    (p4At .fStream 7).cfg.WellFormed ∧ State.rstAsserted { p4At .fStream 7 with rstIn := [true] } = true ∧
      (p4At .fStream 7).phase ≠ .idle := by decide

theorem witness_StepKeepsInvariant : RunInv p4 ∧ step p4 = .next p4 := ⟨p4_runInv, rfl⟩

theorem witness_NoAddressOutsideStorage :
    p4.cfg.WellFormed ∧ inRange p4.cfg 7 1 = true ∧ inRange p4.cfg 8 1 = false ∧ RunInv p4 :=
  ⟨by decide, by decide, by decide, p4_runInv⟩

theorem witness_DecodeReadsTheFields : (1 : BitVec 4) ≠ 0 ∧ 6 ≤ (6 : BitVec 4).toNat := by decide

theorem witness_DecodeEncodeRoundTrip :
    decode 0x50FF00000001 = .legal (.getPixel 1 0) ∧ decode 0x500000000001 = .legal (.getPixel 1 0) := by
  decide

theorem witness_OpcodeTableRows :
    decode 0x20FF00000000 = .legal (.setPixel 0 0 255) ∧
      (0x20FF00000000 : Word) &&& 0xFF0000000000 = tableMatch (.setPixel 0 0 0) := by decide

theorem witness_AssemblerRanges :
    tinyConfig.WellFormed ∧ (-32768 : Int) ≤ -32768 ∧ (32767 : Int) ≤ 32767 ∧
      ¬ ((-32768 : Int) ≤ 32768 ∧ (32768 : Int) ≤ 32767) ∧ (15 : Int) ≤ tinyConfig.maxNative := by decide

theorem witness_QuantiserLaws :
    tinyConfig.WellFormed ∧ tinyConfig.bpp = 4 ∧ (17 : Byte).toNat ≤ (255 : Byte).toNat ∧
      15 ≤ tinyConfig.maxNative := by decide

/-- FieldZeroIsMostSignificant, DerivedConstants: every depth, with the first and the last field. -/
theorem witness_FieldZeroIsMostSignificant :
    (sized 8 1 1).WellFormed ∧ (sized 8 1 2).WellFormed ∧ (sized 8 1 4).WellFormed ∧
      (sized 8 1 8).WellFormed ∧ 0 < 8 / (sized 8 1 2).bpp ∧ 3 < 8 / (sized 8 1 2).bpp ∧
      (3 : Byte).toNat < 2 ^ (sized 8 1 2).bpp ∧ 1 < (sized 8 1 2).bpp := by decide

/-- An entry with data, the last entry without, and an empty sequence. -/
theorem witness_InitSequenceOnTheWire :
    tinyConfig.initSeq = (0xFD, [0x12]) :: [(0xA0, [0x14, 0x11]), (0xAF, [])] ∧
      { tinyConfig with initSeq := [(0xAF, [])] }.initSeq = (0xAF, []) :: [] ∧
      { tinyConfig with initSeq := [] }.initSeq = [] ∧ p4.cfg.WellFormed ∧ p4.cfg.fallible = false ∧
      p4.readyAfter = true := by decide

theorem witness_BoundsCheckIsSigned :
    Config.theInstance.WellFormed ∧ inRange Config.theInstance 255 0 = true ∧
      inRange Config.theInstance 256 0 = false := by decide

theorem witness_AddressGeneratorCoversStorageOnce :
    Config.theInstance.WellFormed ∧ inRange Config.theInstance 255 63 = true ∧
      8191 < Config.theInstance.fbBytes ∧ 1 < Config.theInstance.perByte ∧
      Config.theInstance.width = 256 ∧ Config.theInstance.height = 64 ∧ Config.theInstance.bpp = 4 := by
  decide

theorem witness_FieldMergeLaws :
    tinyConfig.WellFormed ∧ (15 : Byte).toNat ≤ tinyConfig.maxNative ∧ 0 < tinyConfig.perByte ∧
      1 < tinyConfig.perByte ∧ 0 ≠ 1 := by decide

/-- NopChangesNothing, SetPixelResult, SetPixelFieldAndFrame, GetPixelResult, EveryCommandCompletes,
FlushOnTheWire: the corner pixel and the first beyond it. -/
theorem witness_pixel_commands :
    p4.cfg.WellFormed ∧ inRange p4.cfg 7 1 = true ∧ inRange p4.cfg 8 1 = false ∧
      inRange p4.cfg (-1) 0 = false ∧ p4.phase = .idle ∧ p4.readyAfter = true ∧
      (0 : Nat) < p4.cfg.perByte ∧ 0 ≠ fsel p4.cfg 7 ∧
      6 ≠ addr p4.cfg 7 1 := by decide

theorem witness_SetPixelIdempotentCommutative :
    p4.cfg.WellFormed ∧ p4.storage.wf ∧ ((0 : Coord), (0 : Coord)) ≠ (1, 0) := by decide

theorem witness_FillResult :
    (sized 8 1 1).WellFormed ∧ (sized 8 1 2).WellFormed ∧ (sized 8 1 4).WellFormed ∧
      (sized 8 1 8).WellFormed ∧ 7 < p4.cfg.fbBytes ∧ p4.cfg.fbBytes ≤ 8 := by decide

/-- All pixels of a configuration of one byte, two pixels. -/
theorem witness_FillIsSetPixelEverywhere :
    (holding (sized 2 1 4) [0x12]).cfg.WellFormed ∧ (holding (sized 2 1 4) [0x12]).storage.wf ∧
      ∀ x y : Coord, inRange (sized 2 1 4) x y = true → (x, y) ∈ [((0 : Coord), (0 : Coord)), (1, 0)] := by
  refine ⟨by decide, by decide, fun x y h => ?_⟩
  obtain ⟨hx, hy⟩ := inRange_toNat h
  have hx : x.toNat < 2 := hx
  have hy : y.toNat < 1 := hy
  have hy0 : y = 0 := BitVec.eq_of_toNat_eq (by simpa using hy)
  have hx01 : x = 0 ∨ x = 1 := by
    rcases Nat.lt_or_ge x.toNat 1 with hlt | hge
    · exact .inl (BitVec.eq_of_toNat_eq (by simpa using hlt))
    · exact .inr (BitVec.eq_of_toNat_eq (by show x.toNat = 1; omega))
  rcases hx01 with rfl | rfl <;> simp [hy0]

theorem witness_ReadBackAfterOtherCommands :
    p4.cfg.WellFormed ∧ inRange p4.cfg 7 1 = true ∧
      ∀ j ∈ [Instr.setPixel 6 1 255, .flush, .nop, .getPixel 0 0],
        j ≠ .init ∧ (∀ v, j ≠ .fill v) ∧ (∀ v, j ≠ .setPixel 7 1 v) ∧
          (j = .flush → p4.readyAfter = true) := by
  refine ⟨by decide, by decide, fun j hj => ?_⟩
  simp only [List.mem_cons, List.not_mem_nil, or_false] at hj
  have hr : p4.readyAfter = true := rfl
  rcases hj with rfl | rfl | rfl | rfl <;> simp [hr]

/-- InitResult, FlushResult, TraceGrowsByTheEventList: with `init_done` and without, with either transport. -/
theorem witness_driver_commands :
    p4.cfg.WellFormed ∧ p4.cfg.fallible = false ∧ p4.readyAfter = true ∧
      { tinyConfig with fallible := true }.WellFormed ∧ p4.status.initDone = true ∧
      (holding tinyConfig p4Bytes).cfg.fallible = false ∧
      (holding tinyConfig p4Bytes).status.initDone = false ∧ inRange p4.cfg 7 1 = true := by decide

theorem witness_EventsReadOffTheWire :
    (∀ bs, Event.bulk bs ∈ [Event.cmd 0x5C, .bulk [1]] → bs ≠ []) ∧
      ∀ bs, [Event.cmd 0x5C, .bulk [1]].head? ≠ some (Event.bulk bs) := by simp

/-- The first and the last transfer of a flush. -/
theorem witness_FailedFlushStops :
    (p4Fallible [true]).cfg.WellFormed ∧ (p4Fallible [true]).cfg.fallible = true ∧
      (p4Fallible [true]).readyAfter = true ∧ (p4Fallible [true]).status.initDone = true ∧
      (p4Fallible [true]).failIn = List.replicate 0 false ++ true :: [] ∧
      (p4Fallible (List.replicate 14 false ++ [true])).failIn = List.replicate 14 false ++ true :: [] ∧
      14 < 7 + (p4Fallible [true]).cfg.fbBytes := by decide

/-- The last transfer of the sequence, the first and the last of the flush. -/
theorem witness_FailedInitStops :
    (transfersOf (initEvents tinyConfig)).length = 6 ∧ (p4Fallible [true]).readyAfter = true ∧
      (p4Fallible (List.replicate 5 false ++ [true])).failIn = List.replicate 5 false ++ true :: [] ∧
      (p4Fallible (List.replicate 6 false ++ [true])).failIn = List.replicate 6 false ++ true :: [] ∧
      (p4Fallible (List.replicate 20 false ++ [true])).failIn = List.replicate 20 false ++ true :: [] ∧
      20 < 6 + (7 + (p4Fallible []).cfg.fbBytes) := by decide

theorem witness_AcceptedTransfersComplete :
    (p4Fallible (List.replicate 21 false)).failIn =
        List.replicate ((transfersOf (initEvents tinyConfig)).length + (7 + tinyConfig.fbBytes)) false ++ [] ∧
      (p4Fallible (List.replicate 15 false)).failIn = List.replicate (7 + tinyConfig.fbBytes) false ++ [] ∧
      (p4Fallible []).status.initDone = true ∧ (p4Fallible []).readyAfter = true ∧
      (p4Fallible []).cfg.WellFormed := by decide

/-- StoredBytesFrame, WhoWritesWhat: every command answers a next state of `p4`. -/
theorem witness_frames :
    (after .nop p4).isSome ∧ (after .init p4).isSome ∧ (after (.setPixel 7 1 9) p4).isSome ∧
      (after (.setPixel 8 1 9) p4).isSome ∧ (after (.fill 9) p4).isSome ∧ (after .flush p4).isSome ∧
      (after (.getPixel 7 1) p4).isSome := by decide

/-- FlagsAreSticky, ErrorFlagsAreNotRead: a step of a state with every flag set. -/
theorem witness_sticky_flags :
    (stepped { p4With 0x000000000000 .bigStep with status := ⟨true, false, true, true, true⟩ }).isSome ∧
      (p4With 0x000000000000 .bigStep).rstAsserted = false := by decide

theorem witness_RaiseSetsOneFlag : (p4Fallible []).cfg.fallible = true ∧ ErrorFlag.illegal ≠ .xfer := by decide

/-- ErrorsHaveTheirCause: an illegal word, a FLUSH before INIT and a failed transfer each raise their flag. -/
theorem witness_ErrorsHaveTheirCause :
    RunInv (p4With 0x600000000000 .bigStep) ∧ (p4With 0x600000000000 .bigStep).rstAsserted = false ∧
      (stepped (p4With 0x600000000000 .bigStep)).map (fun t => t.status.errIllegal) = some true ∧
      RunInv { holding tinyConfig p4Bytes with program := [0x400000000000] } ∧
      (stepped { holding tinyConfig p4Bytes with program := [0x400000000000] }).map
        (fun t => t.status.errNoinit) = some true ∧
      RunInv { p4Fallible [true] with program := [0x400000000000] } ∧
      (stepped { p4Fallible [true] with program := [0x400000000000] }).map
        (fun t => t.status.errXfer) = some true ∧
      RunInv { p4At .fColCmd 0 with cfg := { tinyConfig with fallible := true }, failIn := [true] } ∧
      (stepped { p4At .fColCmd 0 with cfg := { tinyConfig with fallible := true }, failIn := [true] }).map
        (fun t => t.status.errXfer) = some true :=
  ⟨p4With_runInv _ _, by decide, by decide, early_flush_runInv, by decide, failing_flush_runInv, by decide,
    failing_byte_runInv, by decide⟩

theorem witness_StepRunsDecodedCommand :
    p4.cfg.WellFormed ∧ (p4With 0x400000000000 .bigStep).rstAsserted = false ∧
      (p4With 0x400000000000 .bigStep).status.busy = false ∧
      (p4With 0x400000000000 .bigStep).program = 0x400000000000 :: [] ∧
      decode 0x400000000000 = .legal .flush ∧ decodeTableWord 48 0x400000000000 = some .flush := by decide

/-- CommandAcceptance: a busy state, an idle one in each view. -/
theorem witness_CommandAcceptance :
    p4.cfg.WellFormed ∧ (p4At .fStream 7).status.busy = true ∧ (p4At .fStream 7).rstAsserted = false ∧
      (stepped (p4At .fStream 7)).isSome ∧ (p4With 0x400000000000 .smallStep).status.busy = false ∧
      (p4With 0x400000000000 .smallStep).status.initDone = true ∧
      (p4With 0x400000000000 .bigStep).view = .bigStep := by decide

/-- The first reserved opcode and a reserved field of a legal opcode. -/
theorem witness_IllegalWordSetsItsFlagOnly :
    p4.cfg.WellFormed ∧ (p4With 0x600000000000 .bigStep).status.busy = false ∧
      6 ≤ (fieldOp 0x600000000000).toNat ∧ fieldRsv 0x210000000000 ≠ 0 := by decide

theorem witness_IdleAndStalledStepsWait :
    p4.cfg.WellFormed ∧ p4.rstIn = [] ∧ p4.status.busy = false ∧ p4.program = [] ∧
      State.txOffer { p4At .fColCmd 0 with readyIn := [false] } = some ⟨false, false, false, 0x15⟩ ∧
      State.txOffer { p4At .fStream 7 with readyAfter := false } = some ⟨true, true, true, 0x07⟩ := by decide

/-- SequencerStepTable: a state for each row, with the cursor where its rows meet. -/
theorem witness_SequencerStepTable :
    p4.cfg.WellFormed ∧ p4.cfg.fallible = false ∧ (p4At .zero 6).rstIn = [] ∧ (p4At .zero 6).readyIn = [] ∧
      (p4At .zero 6).readyAfter = true ∧
      (p4At .zero 6).status.busy = true ∧ 6 + 1 < p4.cfg.fbBytes ∧ 7 + 1 = p4.cfg.fbBytes ∧
      (transfersOf (initEvents p4.cfg))[5]? = some ⟨false, false, false, 0xAF⟩ ∧
      6 = (transfersOf (initEvents p4.cfg)).length := by decide

/-- SequencerStepTable, the rows of `IDLE`: INIT, FLUSH with `init_done` and without. -/
theorem witness_SequencerStepTable_idle :
    (p4With 0x100000000000 .smallStep).status.busy = false ∧
      (p4With 0x100000000000 .smallStep).phase = .idle ∧
      (p4With 0x100000000000 .smallStep).program = 0x100000000000 :: [] ∧
      decode 0x100000000000 = .legal .init ∧ decode 0x400000000000 = .legal .flush ∧
      (p4With 0x400000000000 .smallStep).status.initDone = true ∧
      (holding tinyConfig p4Bytes).status.initDone = false ∧
      (holding tinyConfig p4Bytes).phase = .idle := by decide

theorem witness_SmallStepsAgreeWithBigStep :
    p4.cfg.WellFormed ∧ p4.status.busy = false ∧ p4.phase = .idle ∧ p4.rstIn = [] ∧ p4.readyIn = [] ∧
      p4.readyAfter = true ∧
      (p4With 0x100000000000 .smallStep).view = .smallStep ∧
      (p4With 0x100000000000 .smallStep).program = 0x100000000000 :: [] := by decide

/-- A busy block. -/
theorem witness_EveryCommandTerminates :
    RunInv (p4At .fStream 7) ∧ (p4At .fStream 7).rstIn = [] ∧ (p4At .fStream 7).readyAfter = true ∧
      (p4At .fStream 7).status.busy = true := ⟨p4At_runInv, rfl, rfl, rfl⟩

/-- A FLUSH, and an INIT, presented to a block whose sink is dead. -/
theorem witness_DeadSinkHangsInitAndFlush :
    { p4With 0x400000000000 .bigStep with readyAfter := false }.program = 0x400000000000 :: [] ∧
      (p4With 0x400000000000 .bigStep).rstIn = [] ∧ (p4With 0x400000000000 .bigStep).readyIn = [] ∧
      (p4With 0x400000000000 .bigStep).status.busy = false ∧
      (p4With 0x400000000000 .bigStep).status.initDone = true ∧
      (p4With 0x400000000000 .bigStep).phase = .idle ∧ p4.cfg.WellFormed ∧
      decode 0x400000000000 = .legal .flush ∧ decode 0x100000000000 = .legal .init := by decide

theorem witness_DeviceHoldsTheFrame :
    p4.cfg.WellFormed ∧ p4.cfg.fallible = false ∧ p4.cfg.distinctCommands ∧ p4.cfg.windowMatches ∧
      p4.status.initDone = true ∧ 1 < p4.cfg.height ∧ 3 < p4.cfg.rowBytes ∧
      (after (.fill 255) p4).isSome := by
  refine ⟨by decide, by decide, ?_, ?_, by decide, by decide, by decide, by decide⟩
  · unfold Config.distinctCommands
    decide
  · unfold Config.windowMatches
    decide

end Sys2Proof.Tests
end

section
/-! PROOFS. Which configurations are refused (rule R7). -/

namespace Sys2Proof.Machine

variable {s : State} {k : Host.Outcome State Fault Refusal}

/-- The outcome is a next state or a fault: the step or command has a meaning. -/
def NotRefused (k : Host.Outcome State Fault Refusal) : Prop := ∀ r, k ≠ .refused r

theorem notRefused_next (s : State) : NotRefused (.next s) := nofun

theorem notRefused_fault (r : Fault) : NotRefused (.fault r) := nofun

theorem notRefused_configured (h : s.cfg.WellFormed) (hk : NotRefused k) : NotRefused (configured s k) := by
  rwa [configured_of h]

theorem notRefused_memRead {a : Nat} {next : Byte → Host.Outcome State Fault Refusal}
    (h : ∀ b, NotRefused (next b)) : NotRefused (memRead s a next) := by
  unfold memRead
  split
  · exact h _
  · exact notRefused_fault _

theorem notRefused_memWrite (s : State) (a : Nat) (v : Byte) : NotRefused (memWrite s a v) := by
  unfold memWrite
  split
  · exact notRefused_next _
  · exact notRefused_fault _

theorem notRefused_finish (h : NotRefused k) : NotRefused (finish k) := by
  cases k with
  | next t => exact notRefused_next _
  | fault r => exact notRefused_fault r
  | refused r => exact absurd rfl (h r)

/-- No command of a well-formed configuration is refused (R7). -/
theorem notRefused_exec (h : s.cfg.WellFormed) (i : Instr) : NotRefused (exec i s) := by
  cases i with
  | nop => exact notRefused_configured h (notRefused_next s)
  | init => exact notRefused_configured h (notRefused_next _)
  | fill v => exact notRefused_configured h (notRefused_next _)
  | setPixel x y v =>
    refine notRefused_configured h ?_
    split
    · exact notRefused_memRead fun _ => notRefused_memWrite _ _ _
    · exact notRefused_next s
  | flush =>
    refine notRefused_configured h ?_
    split <;> exact notRefused_next _
  | getPixel x y =>
    refine notRefused_configured h ?_
    split
    · exact notRefused_memRead fun _ => notRefused_next _
    · exact notRefused_next _

theorem notRefused_illegalWord (h : s.cfg.WellFormed) : NotRefused (illegalWord s) :=
  notRefused_configured h (notRefused_next _)

theorem notRefused_beginCommand (i : Instr) (s : State) : NotRefused (beginCommand i s) := by
  cases i with
  | flush =>
    simp only [beginCommand]
    split <;> exact notRefused_next _
  | nop | init | setPixel x y v | fill v | getPixel x y => exact notRefused_next _

theorem notRefused_offerByte (t : Transfer) (s : State) : NotRefused (offerByte t s) := by
  unfold offerByte
  split
  · split <;> exact notRefused_next _
  · exact notRefused_next _

theorem notRefused_zeroStep (s : State) : NotRefused (zeroStep s) := by
  unfold zeroStep
  split
  next t _ => split <;> exact notRefused_next _
  next r _ => exact notRefused_fault r
  next r hw => exact absurd hw (notRefused_memWrite s s.cursor 0 r)

theorem notRefused_runLatched (h : s.cfg.WellFormed) : NotRefused (runLatched s) := by
  unfold runLatched
  split
  next => exact notRefused_illegalWord h
  next => exact notRefused_beginCommand .init s
  next => exact notRefused_beginCommand .flush s
  all_goals exact notRefused_finish (notRefused_exec h _)

theorem notRefused_sequencerStep (h : s.cfg.WellFormed) : NotRefused (sequencerStep s) := by
  unfold sequencerStep
  split
  next t _ => exact notRefused_offerByte t s
  next =>
    cases s.phase with
    | idle => exact notRefused_runLatched h
    | zero => exact notRefused_zeroStep s
    | fStream => exact notRefused_fault _
    | initSeq | fColCmd | fColMin | fColMax | fRowCmd | fRowMin | fRowMax | fWram => exact notRefused_next _

theorem notRefused_issue (h : s.cfg.WellFormed) (w : Word) : NotRefused (issue w s) := by
  have ha : (s.accept w).cfg.WellFormed := h
  unfold issue
  split
  next => exact notRefused_illegalWord ha
  next i _ =>
    cases s.view with
    | bigStep => exact notRefused_finish (notRefused_exec ha i)
    | smallStep => exact notRefused_beginCommand i _

theorem notRefused_runStep (h : s.cfg.WellFormed) : NotRefused (runStep s) := by
  unfold runStep
  split
  · exact notRefused_sequencerStep h
  · split
    next => exact notRefused_next s
    next w _ _ => exact notRefused_issue h w

/-- No step of a well-formed configuration is refused (R7). -/
theorem notRefused_step (h : s.cfg.WellFormed) : NotRefused (step s) := by
  refine notRefused_configured h ?_
  split
  · exact notRefused_next _
  · exact notRefused_runStep (s := s.popRst) h

/-- Every step of an ill-formed configuration is refused, before `rst` is looked at (R7, log 7). -/
theorem step_refuses (h : ¬ s.cfg.WellFormed) : step s = .refused .badConfiguration := configured_refuses h

/-- Every command of an ill-formed configuration is refused (R7, log 7). -/
theorem exec_refuses (h : ¬ s.cfg.WellFormed) (i : Instr) : exec i s = .refused .badConfiguration := by
  cases i with
  | nop | init | setPixel x y v | fill v | flush | getPixel x y => exact configured_refuses h

end Sys2Proof.Machine

namespace Sys2Proof

/-- R7's conditions in the order in which the rule lists them. -/
theorem Config.wellFormed_iff (c : Config) :
    c.WellFormed ↔ (c.bpp = 1 ∨ c.bpp = 2 ∨ c.bpp = 4 ∨ c.bpp = 8) ∧ c.width % (8 / c.bpp) = 0 ∧
      1 ≤ c.width ∧ 1 ≤ c.height ∧ c.width ≤ 32767 ∧ c.height ≤ 32767 ∧ c.height ≤ 256 := by
  unfold Config.WellFormed
  tauto

end Sys2Proof

open Sys2Proof Sys2Proof.Machine

/-- Settles O1: every step and command asks `configured` before all else, and under a well-formed
configuration no part of a step or command answers a refusal. -/
theorem onlyIllFormedConfigurationsRefused : Obligations.OnlyIllFormedConfigurationsRefused := by
  intro s
  rw [← Config.wellFormed_iff]
  exact ⟨fun h => ⟨step_refuses h, exec_refuses h⟩,
    fun h r => ⟨notRefused_step h r, fun i => notRefused_exec h i r⟩⟩

end

section
/-! PROOFS. The derived constants of a configuration (rules R8, R9). -/

namespace Sys2Proof

variable {c : Config}

theorem Config.WellFormed.rowBytes_mul_eight (h : c.WellFormed) : c.rowBytes * 8 = c.width * c.bpp := by
  rw [← h.perByte_mul_bpp, ← h.rowBytes_mul, Nat.mul_assoc]

theorem Config.WellFormed.fbBytes_mul_eight (h : c.WellFormed) : c.fbBytes * 8 = c.height * c.width * c.bpp := by
  rw [Config.fbBytes, Nat.mul_assoc, h.rowBytes_mul_eight, Nat.mul_assoc]

/-- At every depth of R7, `MAXNATIVE` divides 255. -/
theorem Config.WellFormed.stepSize_mul_maxNative (h : c.WellFormed) : c.stepSize * c.maxNative = 255 := by
  rcases h.1 with hb | hb | hb | hb <;> simp [Config.stepSize, Config.maxNative, hb]

/-- A well-formed framebuffer has at most 256 rows of at most 32767 bytes. -/
theorem Config.WellFormed.fbBytes_le (h : c.WellFormed) : c.fbBytes ≤ 2 ^ 23 := by
  obtain ⟨-, -, -, hw, -, -, hh⟩ := h
  calc c.height * c.rowBytes ≤ 256 * 32767 := Nat.mul_le_mul hh ((Nat.div_le_self _ _).trans hw)
    _ ≤ 2 ^ 23 := by decide

/-- The bounded search of `addrWidth` finds the binary logarithm of `FB_BYTES`, rounded up. -/
theorem Config.WellFormed.addrWidth_eq_clog (h : c.WellFormed) : c.addrWidth = Nat.clog 2 c.fbBytes := by
  have hlt : Nat.clog 2 c.fbBytes < 32 := (Nat.clog_le_of_le_pow h.fbBytes_le).trans_lt (by decide)
  have hleast : ∀ w < Nat.clog 2 c.fbBytes, ¬ c.fbBytes ≤ 2 ^ w :=
    fun w hw => Nat.not_le.mpr (Nat.pow_lt_of_lt_clog hw)
  have hfind : ((List.range 32).find? fun w => decide (c.fbBytes ≤ 2 ^ w)) = some (Nat.clog 2 c.fbBytes) := by
    simpa [Nat.le_pow_clog, hlt] using hleast
  rw [Config.addrWidth, hfind, Option.getD_some]

/-- `2 ^ w` bytes cover the framebuffer exactly from `w = ADDR_W` on (R8). -/
theorem Config.WellFormed.addrWidth_le_iff (h : c.WellFormed) (w : Nat) :
    c.addrWidth ≤ w ↔ c.fbBytes ≤ 2 ^ w := by
  rw [h.addrWidth_eq_clog, Nat.clog_le_iff_le_pow (by decide)]

theorem Config.WellFormed.rowMax_toNat (h : c.WellFormed) : c.rowMax.toNat = c.height - 1 := by
  obtain ⟨-, -, -, -, -, -, hh⟩ := h
  exact (BitVec.toNat_ofNat _ _).trans (Nat.mod_eq_of_lt (by omega))

end Sys2Proof

open Sys2Proof

/-- Settles O54: R8's formulas for every well-formed configuration, and the 256 × 64 panel's values computed. -/
theorem derivedConstants : Obligations.DerivedConstants := by
  refine ⟨fun c h => ?_, by decide⟩
  exact ⟨h.perByte_mul_bpp, rfl, h.rowBytes_mul_eight, h.fbBytes_mul_eight, rfl, h.stepSize_mul_maxNative,
    (h.addrWidth_le_iff _).mp le_rfl, fun w => (h.addrWidth_le_iff w).mpr, rfl, h.rowMax_toNat⟩

end

section
/-! PROOFS. What each command can do (rules R34, R55, R90 to R95, R110 to R116), said once, and the frames that
follow from it. -/

namespace Sys2Proof.Machine

variable {s t : State}

/-- The state after more transfers: the history has grown, samples and answers are used up. -/
def State.sent (more : List Transfer) (ready fail : List Bool) (s : State) : State :=
  { s with wire := s.wire ++ more, readyIn := ready, failIn := fail }

/-- Every next state that a command can answer, guards included. -/
inductive ExecResult (s : State) : Instr → State → Prop
  | nop : ExecResult s .nop s
  | pixelSet {x y : Coord} {v : Byte} (inside : inRange s.cfg x y = true) :
      ExecResult s (.setPixel x y v) (s.withStorage (s.storage.write (addr s.cfg x y)
        (insert s.cfg (s.readByte (addr s.cfg x y)) (fsel s.cfg x) (quant s.cfg v))))
  | pixelOutside {x y : Coord} {v : Byte} (outside : inRange s.cfg x y = false) :
      ExecResult s (.setPixel x y v) s
  | filled {v : Byte} :
      ExecResult s (.fill v) (s.withStorage (s.storage.fill (pattern s.cfg (quant s.cfg v)) s.cfg.fbBytes))
  | pixelRead {x y : Coord} (inside : inRange s.cfg x y = true) :
      ExecResult s (.getPixel x y)
        (s.withResp true (extract s.cfg (s.readByte (addr s.cfg x y)) (fsel s.cfg x)))
  | readMissed {x y : Coord} (outside : inRange s.cfg x y = false) :
      ExecResult s (.getPixel x y) (s.withResp false 0)
  | flushRefused (early : s.status.initDone = false) : ExecResult s .flush (s.raise .noinit)
  | flushBegun (done : s.status.initDone = true) (unfair : s.readyAfter = false) :
      ExecResult s .flush s.beginFlush
  | flushed (more : List Transfer) (ready fail : List Bool) (done : s.status.initDone = true) :
      ExecResult s .flush (s.sent more ready fail).flushDone
  | flushFailed (more : List Transfer) (ready fail : List Bool) (done : s.status.initDone = true) :
      ExecResult s .flush (s.sent more ready fail).failTransfer
  | initBegun (unfair : s.readyAfter = false) : ExecResult s .init s.beginInit
  | initialised (more : List Transfer) (ready fail : List Bool) :
      ExecResult s .init ((zeroFilled s).sent more ready fail).flushDone
  | sequenceFailed (more : List Transfer) (ready fail : List Bool) :
      ExecResult s .init (s.sent more ready fail).failTransfer
  | initFlushFailed (more : List Transfer) (ready fail : List Bool) :
      ExecResult s .init ((zeroFilled s).sent more ready fail).failTransfer

theorem State.sent_sent (s : State) (ts₁ ts₂ : List Transfer) (r₁ r₂ f₁ f₂ : List Bool) :
    (s.sent ts₁ r₁ f₁).sent ts₂ r₂ f₂ = s.sent (ts₁ ++ ts₂) r₂ f₂ := by
  simp [State.sent]

/-- Sending only sends. -/
theorem transmit_sent (ts : List Transfer) (s : State) :
    ∃ more ready fail, (transmit ts s).1 = s.sent more ready fail := by
  obtain ⟨n, fs, -, -, -, heq⟩ := transmit_spec ts s
  exact ⟨_, _, _, heq⟩

theorem flushState_of_transmit {u : State} {ok : Bool}
    (h : transmit (transfersOf (flushEvents s.cfg s.streamBytes)) s = (u, ok)) :
    flushState s = if ok then u.flushDone else u.failTransfer := by
  rw [flushState, h]
  cases ok <;> rfl

theorem initState_of_transmit {u : State} {ok : Bool} (h : transmit (transfersOf (initEvents s.cfg)) s = (u, ok)) :
    initState s = if ok then flushState (zeroFilled u) else u.failTransfer := by
  rw [initState, h]
  cases ok <;> rfl

/-- A flush completes, or ends at a transfer that the sink fails (R116, R125). -/
theorem flushState_result (s : State) :
    ∃ more ready fail, flushState s = (s.sent more ready fail).flushDone ∨
      flushState s = (s.sent more ready fail).failTransfer := by
  obtain ⟨more, ready, fail, hsent⟩ := transmit_sent (transfersOf (flushEvents s.cfg s.streamBytes)) s
  refine ⟨more, ready, fail, ?_⟩
  rw [← hsent, flushState_of_transmit rfl]
  exact ite_eq_or_eq ..

/-- INIT completes, or fails in the sequence, before the zero-fill, or in the flush, after it (R112, R125). -/
theorem initState_result (s : State) :
    ∃ more ready fail, initState s = ((zeroFilled s).sent more ready fail).flushDone ∨
      initState s = (s.sent more ready fail).failTransfer ∨
      initState s = ((zeroFilled s).sent more ready fail).failTransfer := by
  obtain ⟨ts₁, r₁, f₁, hsent⟩ := transmit_sent (transfersOf (initEvents s.cfg)) s
  obtain ⟨ts₂, r₂, f₂, hflush⟩ := flushState_result (zeroFilled (s.sent ts₁ r₁ f₁))
  have hcomm :
      (zeroFilled (s.sent ts₁ r₁ f₁)).sent ts₂ r₂ f₂ = (zeroFilled s).sent (ts₁ ++ ts₂) r₂ f₂ :=
    (zeroFilled s).sent_sent ..
  rw [hcomm] at hflush
  rw [initState_of_transmit rfl, hsent]
  split
  · exact ⟨_, _, _, hflush.imp_right .inr⟩
  · exact ⟨_, _, _, .inr (.inl rfl)⟩

theorem execInit_result (h : exec .init s = .next t) : ExecResult s .init t := by
  obtain ⟨-, h⟩ := configured_next h
  cases h
  split
  · obtain ⟨more, ready, fail, h | h | h⟩ := initState_result s <;> rw [h]
    · exact .initialised ..
    · exact .sequenceFailed ..
    · exact .initFlushFailed ..
  next hr => exact .initBegun (by simpa using hr)

theorem execFlush_result (h : exec .flush s = .next t) : ExecResult s .flush t := by
  obtain ⟨-, h⟩ := configured_next h
  split at h <;> cases h
  next hd =>
    split
    · obtain ⟨more, ready, fail, h | h⟩ := flushState_result s <;> rw [h]
      · exact .flushed _ _ _ hd
      · exact .flushFailed _ _ _ hd
    next hr => exact .flushBegun hd (by simpa using hr)
  next hd => exact .flushRefused (by simpa using hd)

theorem execSetPixel_result {x y : Coord} {v : Byte} (h : exec (.setPixel x y v) s = .next t) :
    ExecResult s (.setPixel x y v) t := by
  obtain ⟨-, h⟩ := configured_next h
  split at h
  next hin =>
    obtain ⟨-, h⟩ := memRead_next h
    obtain ⟨-, rfl⟩ := memWrite_next h
    exact .pixelSet hin
  next hout =>
    cases h
    exact .pixelOutside (by simpa using hout)

theorem execGetPixel_result {x y : Coord} (h : exec (.getPixel x y) s = .next t) :
    ExecResult s (.getPixel x y) t := by
  obtain ⟨-, h⟩ := configured_next h
  split at h
  next hin =>
    obtain ⟨-, h⟩ := memRead_next h
    cases h
    exact .pixelRead hin
  next hout =>
    cases h
    exact .readMissed (by simpa using hout)

theorem exec_result {i : Instr} (h : exec i s = .next t) : ExecResult s i t := by
  cases i with
  | nop =>
    obtain ⟨-, h⟩ := configured_next h
    cases h
    exact .nop
  | fill v =>
    obtain ⟨-, h⟩ := configured_next h
    cases h
    exact .filled
  | init => exact execInit_result h
  | flush => exact execFlush_result h
  | setPixel x y v => exact execSetPixel_result h
  | getPixel x y => exact execGetPixel_result h

/-! ### Storage -/

/-- Only SETPIXEL, FILL and INIT have a path that writes `storage` (R34, R55). -/
theorem exec_storage {i : Instr} (h : exec i s = .next t) (hni : i ≠ .init) (hnf : ∀ v, i ≠ .fill v)
    (hns : ∀ x y v, i ≠ .setPixel x y v) : t.storage = s.storage := by
  cases exec_result h with
  | nop | pixelRead | readMissed | flushRefused | flushBegun | flushed | flushFailed => rfl
  | pixelSet | pixelOutside => exact absurd rfl (hns _ _ _)
  | filled => exact absurd rfl (hnf _)
  | initBegun | initialised | sequenceFailed | initFlushFailed => exact absurd rfl hni

theorem exec_epoch {i : Instr} (h : exec i s = .next t) : t.epoch = s.epoch := by
  cases exec_result h <;> rfl

theorem exec_setPixel_readByte {x y : Coord} {v : Byte} (h : exec (.setPixel x y v) s = .next t) {a : Nat}
    (ha : inRange s.cfg x y = true → a ≠ addr s.cfg x y) : t.readByte a = s.readByte a := by
  cases exec_result h with
  | pixelSet inside => rw [State.readByte_write, if_neg (ha inside).symm]
  | pixelOutside outside => rfl

/-- INIT and FILL write below `FB_BYTES` only. -/
theorem exec_filler_readByte {i : Instr} (h : exec i s = .next t) (hi : i = .init ∨ ∃ v, i = .fill v) {a : Nat}
    (ha : s.cfg.fbBytes ≤ a) : t.readByte a = s.readByte a := by
  have hz : (zeroFilled s).readByte a = s.readByte a := by
    rw [State.readByte_zeroFilled, if_neg (Nat.not_lt.mpr ha)]
  obtain rfl | ⟨v, rfl⟩ := hi
  · cases exec_result h with
    | initBegun unfair | sequenceFailed more ready fail => rfl
    | initialised more ready fail | initFlushFailed more ready fail => exact hz
  · cases exec_result h
    rw [State.readByte_fill, if_neg (Nat.not_lt.mpr ha)]

/-! ### The rest of the state -/

/-- Only INIT and FLUSH send, and only they touch the sequencer and `STATUS` (R34, R110). -/
theorem exec_quiet {i : Instr} (h : exec i s = .next t) (hni : i ≠ .init) (hnf : i ≠ .flush) :
    t.wire = s.wire ∧ t.readyIn = s.readyIn ∧ t.failIn = s.failIn ∧ t.deviceStale = s.deviceStale ∧
      t.status = s.status ∧ t.phase = s.phase ∧ t.cursor = s.cursor := by
  cases exec_result h with
  | nop | pixelSet | pixelOutside | filled | pixelRead | readMissed => exact ⟨rfl, rfl, rfl, rfl, rfl, rfl, rfl⟩
  | flushRefused | flushBegun | flushed | flushFailed => exact absurd rfl hnf
  | initBegun | initialised | sequenceFailed | initFlushFailed => exact absurd rfl hni

theorem exec_resp {i : Instr} (h : exec i s = .next t) (hng : ∀ x y, i ≠ .getPixel x y) : t.resp = s.resp := by
  cases exec_result h with
  | pixelRead | readMissed => exact absurd rfl (hng _ _)
  | nop | pixelSet | pixelOutside | filled | flushRefused | flushBegun | flushed | flushFailed
  | initBegun | initialised | sequenceFailed | initFlushFailed => rfl

theorem exec_errIllegal {i : Instr} (h : exec i s = .next t) : t.status.errIllegal = s.status.errIllegal := by
  cases exec_result h <;> rfl

theorem exec_errNoinit {i : Instr} (h : exec i s = .next t) (hnf : i ≠ .flush) :
    t.status.errNoinit = s.status.errNoinit := by
  cases exec_result h with
  | flushRefused | flushBegun | flushed | flushFailed => exact absurd rfl hnf
  | nop | pixelSet | pixelOutside | filled | pixelRead | readMissed
  | initBegun | initialised | sequenceFailed | initFlushFailed => rfl

theorem exec_initDone {i : Instr} (h : exec i s = .next t) (hni : i ≠ .init) :
    t.status.initDone = s.status.initDone := by
  cases exec_result h with
  | initBegun | initialised | sequenceFailed | initFlushFailed => exact absurd rfl hni
  | nop | pixelSet | pixelOutside | filled | pixelRead | readMissed
  | flushRefused | flushBegun | flushed | flushFailed => rfl

/-- What was sent stays sent (R27). -/
theorem exec_wire {i : Instr} (h : exec i s = .next t) : ∃ more, t.wire = s.wire ++ more := by
  cases exec_result h with
  | flushed more | flushFailed more | initialised more | sequenceFailed more | initFlushFailed more =>
    exact ⟨more, rfl⟩
  | nop | pixelSet | pixelOutside | filled | pixelRead | readMissed | flushRefused | flushBegun | initBegun =>
    exact ⟨[], (List.append_nil _).symm⟩

end Sys2Proof.Machine

open Sys2Proof Sys2Proof.Machine

/-- Settles O35, by the results each command can answer: a reader keeps `storage`, SETPIXEL writes one byte, the
fills stop at `FB_BYTES`. -/
theorem storedBytesFrame : Obligations.StoredBytesFrame := by
  intro s t
  refine ⟨fun i hi h a => ?_, fun x y v h => ⟨fun hout a => ?_, fun a ha => ?_⟩, fun i hi h a ha => ?_⟩
  · have hm : t.storage = s.storage := by
      obtain rfl | rfl | ⟨x, y, rfl⟩ := hi <;> exact exec_storage h nofun nofun nofun
    exact State.readByte_congr hm (exec_epoch h) a
  · exact exec_setPixel_readByte h fun hin => by simp [hout] at hin
  · exact exec_setPixel_readByte h fun _ => ha
  · exact exec_filler_readByte h hi ha

/-- Settles O36, by the results each command can answer. -/
theorem whoWritesWhat : Obligations.WhoWritesWhat := by
  intro i s t h
  refine ⟨?_, exec_quiet h, exec_storage h, exec_resp h, exec_errIllegal h, exec_errNoinit h, exec_initDone h,
    exec_wire h⟩
  cases exec_result h <;> exact ⟨rfl, rfl, rfl, rfl, rfl, rfl, rfl, rfl, rfl, rfl⟩

end

section
/-! PROOFS. What a step does to the error flags (rules R24, R154, R158): it sets some of them, and it reads none.
Each part of a step is run twice, from a state and from the same state with other error flags. -/

namespace Sys2Proof.Machine

variable {s t : State} {a b c : Bool} {k k' : Host.Outcome State Fault Refusal}

/-- Of two outcomes, `k` from `s` and `k'` from `s` with the error flags `a b c`: where `k` answers a next state,
it has raised some error flags and kept the others and `init_done`, and `k'` answers that state with the same flags
raised over `a b c`. -/
def RaisesAlike (s : State) (a b c : Bool) (k k' : Host.Outcome State Fault Refusal) : Prop :=
  ∀ t, k = .next t → (s.status.initDone = true → t.status.initDone = true) ∧
    ∃ illegal noinit xfer : Bool,
      t.status.errIllegal = (illegal || s.status.errIllegal) ∧
      t.status.errNoinit = (noinit || s.status.errNoinit) ∧
      t.status.errXfer = (xfer || s.status.errXfer) ∧
      k' = .next (t.withErrors (illegal || a) (noinit || b) (xfer || c))

/-- From `s` to `t` no error flag changes, and `init_done` stays if set. -/
def State.KeepsFlags (s t : State) : Prop :=
  (s.status.initDone = true → t.status.initDone = true) ∧ t.status.errIllegal = s.status.errIllegal ∧
    t.status.errNoinit = s.status.errNoinit ∧ t.status.errXfer = s.status.errXfer

/-- A next state that raises nothing: for most updates of the state, each field of `KeepsFlags` is by definition. -/
theorem raisesAlike_quiet (h : s.KeepsFlags t := by exact ⟨id, rfl, rfl, rfl⟩) :
    RaisesAlike s a b c (.next t) (.next (t.withErrors a b c)) := by
  rintro _ ⟨⟩
  obtain ⟨hd, hi, hn, hx⟩ := h
  exact ⟨hd, false, false, false, hi, hn, hx, rfl⟩

/-- What keeps the flags may come before. -/
theorem RaisesAlike.after_quiet {u : State} (hs : s.KeepsFlags u) (h : RaisesAlike u a b c k k') :
    RaisesAlike s a b c k k' := by
  intro t ht
  obtain ⟨hd, hi, hn, hx⟩ := hs
  rw [← hi, ← hn, ← hx]
  exact (h t ht).imp_left fun h' => h' ∘ hd

theorem raisesAlike_raise (e : ErrorFlag) (s : State) (a b c : Bool) :
    RaisesAlike s a b c (.next (s.raise e)) (.next ((s.withErrors a b c).raise e)) := by
  rintro _ ⟨⟩
  cases e with
  | illegal => exact ⟨id, true, false, false, rfl, rfl, rfl, rfl⟩
  | noinit => exact ⟨id, false, true, false, rfl, rfl, rfl, rfl⟩
  | xfer => exact ⟨id, false, false, true, rfl, rfl, rfl, rfl⟩

theorem raisesAlike_failTransfer (s : State) (a b c : Bool) :
    RaisesAlike s a b c (.next s.failTransfer) (.next (s.withErrors a b c).failTransfer) :=
  raisesAlike_raise .xfer { s with cursor := 0, deviceStale := true } a b c

theorem raisesAlike_fault (r : Fault) : RaisesAlike s a b c (.fault r) k' := by
  rintro _ ⟨⟩

theorem raisesAlike_refused (r : Refusal) : RaisesAlike s a b c (.refused r) k' := by
  rintro _ ⟨⟩

theorem raisesAlike_ite {p : Prop} [Decidable p] {k₁ k₂ k₁' k₂' : Host.Outcome State Fault Refusal}
    (h₁ : RaisesAlike s a b c k₁ k₁') (h₂ : RaisesAlike s a b c k₂ k₂') :
    RaisesAlike s a b c (if p then k₁ else k₂) (if p then k₁' else k₂') := by
  split
  · exact h₁
  · exact h₂

theorem raisesAlike_next_ite {p : Prop} [Decidable p] {u₁ u₂ u₁' u₂' : State}
    (h₁ : RaisesAlike s a b c (.next u₁) (.next u₁')) (h₂ : RaisesAlike s a b c (.next u₂) (.next u₂')) :
    RaisesAlike s a b c (.next (if p then u₁ else u₂)) (.next (if p then u₁' else u₂')) := by
  split
  · exact h₁
  · exact h₂

theorem raisesAlike_configured (h : RaisesAlike s a b c k k') :
    RaisesAlike s a b c (configured s k) (configured (s.withErrors a b c) k') :=
  raisesAlike_ite h (raisesAlike_refused _)

theorem raisesAlike_memRead {n : Nat} {next next' : Byte → Host.Outcome State Fault Refusal}
    (h : ∀ v, RaisesAlike s a b c (next v) (next' v)) :
    RaisesAlike s a b c (memRead s n next) (memRead (s.withErrors a b c) n next') :=
  raisesAlike_ite (h _) (raisesAlike_fault _)

theorem raisesAlike_memWrite (s : State) (a b c : Bool) (n : Nat) (v : Byte) :
    RaisesAlike s a b c (memWrite s n v) (memWrite (s.withErrors a b c) n v) :=
  raisesAlike_ite raisesAlike_quiet (raisesAlike_fault _)

theorem raisesAlike_finish (h : RaisesAlike s a b c k k') : RaisesAlike s a b c (finish k) (finish k') := by
  intro t ht
  obtain ⟨u, rfl, rfl⟩ := finish_next ht
  obtain ⟨hd, illegal, noinit, xfer, hi, hn, hx, rfl⟩ := h u rfl
  by_cases hp : u.phase = .idle
  · rw [if_pos hp, finish_idle (by exact hp)]
    exact ⟨hd, illegal, noinit, xfer, hi, hn, hx, rfl⟩
  · rw [if_neg hp, finish_walking (by exact hp)]
    exact ⟨hd, illegal, noinit, xfer, hi, hn, hx, rfl⟩

/-! ### Commands -/

theorem transmit_withErrors (ts : List Transfer) (s : State) (a b c : Bool) :
    transmit ts (s.withErrors a b c) = ((transmit ts s).1.withErrors a b c, (transmit ts s).2) := by
  induction ts generalizing s with
  | nil => rfl
  | cons t ts ih =>
    have hf : (s.withErrors a b c).sinkFails = s.sinkFails := rfl
    cases h : s.sinkFails with
    | true =>
      simp only [transmit, hf, h, if_true]
      rfl
    | false =>
      simp only [transmit, hf, h, Bool.false_eq_true, if_false]
      exact ih (s.awaited.transfer t)

/-- Sending changes no flag, and reads none. -/
theorem transmit_twin {ts : List Transfer} {u : State} {ok : Bool} (h : transmit ts s = (u, ok)) (a b c : Bool) :
    s.KeepsFlags u ∧ transmit ts (s.withErrors a b c) = (u.withErrors a b c, ok) := by
  obtain ⟨more, ready, fail, hsent⟩ := transmit_sent ts s
  rw [transmit_withErrors, h]
  rw [h] at hsent
  obtain rfl : u = s.sent more ready fail := hsent
  exact ⟨⟨id, rfl, rfl, rfl⟩, rfl⟩

/-- A flush may raise `err_xfer`, and nothing else (R116, R125). -/
theorem raisesAlike_flushState (s : State) (a b c : Bool) :
    RaisesAlike s a b c (.next (flushState s)) (.next (flushState (s.withErrors a b c))) := by
  cases h : transmit (transfersOf (flushEvents s.cfg s.streamBytes)) s with
  | mk u ok =>
    obtain ⟨hkeep, htwin⟩ := transmit_twin h a b c
    rw [flushState_of_transmit h, flushState_of_transmit (s := s.withErrors a b c) htwin]
    refine RaisesAlike.after_quiet hkeep ?_
    cases ok with
    | true => exact raisesAlike_quiet
    | false => exact raisesAlike_failTransfer u a b c

theorem raisesAlike_initState (s : State) (a b c : Bool) :
    RaisesAlike s a b c (.next (initState s)) (.next (initState (s.withErrors a b c))) := by
  cases h : transmit (transfersOf (initEvents s.cfg)) s with
  | mk u ok =>
    obtain ⟨hkeep, htwin⟩ := transmit_twin h a b c
    rw [initState_of_transmit h, initState_of_transmit (s := s.withErrors a b c) htwin]
    refine RaisesAlike.after_quiet hkeep ?_
    cases ok with
    | true =>
      have hfill : u.KeepsFlags (zeroFilled u) := ⟨fun _ => rfl, rfl, rfl, rfl⟩
      exact (raisesAlike_flushState (zeroFilled u) a b c).after_quiet hfill
    | false => exact raisesAlike_failTransfer u a b c

theorem raisesAlike_exec (i : Instr) (s : State) (a b c : Bool) :
    RaisesAlike s a b c (exec i s) (exec i (s.withErrors a b c)) := by
  cases i with
  | nop => exact raisesAlike_configured raisesAlike_quiet
  | fill v => exact raisesAlike_configured raisesAlike_quiet
  | init => exact raisesAlike_configured (raisesAlike_next_ite (raisesAlike_initState s a b c) raisesAlike_quiet)
  | setPixel x y v =>
    exact raisesAlike_configured <| raisesAlike_ite
      (raisesAlike_memRead fun _ => raisesAlike_memWrite s a b c _ _) raisesAlike_quiet
  | flush =>
    refine raisesAlike_configured <| raisesAlike_ite ?_ (raisesAlike_raise .noinit s a b c)
    exact raisesAlike_next_ite (raisesAlike_flushState s a b c) raisesAlike_quiet
  | getPixel x y =>
    exact raisesAlike_configured <| raisesAlike_ite
      (raisesAlike_memRead fun _ => raisesAlike_quiet) raisesAlike_quiet

/-! ### Steps -/

theorem raisesAlike_illegalWord (s : State) (a b c : Bool) :
    RaisesAlike s a b c (illegalWord s) (illegalWord (s.withErrors a b c)) :=
  raisesAlike_configured (raisesAlike_raise .illegal s a b c)

theorem raisesAlike_beginCommand (i : Instr) (s : State) (a b c : Bool) :
    RaisesAlike s a b c (beginCommand i s) (beginCommand i (s.withErrors a b c)) := by
  cases i with
  | flush => exact raisesAlike_ite raisesAlike_quiet (raisesAlike_raise .noinit s a b c)
  | init | nop | setPixel x y v | fill v | getPixel x y => exact raisesAlike_quiet

theorem raisesAlike_afterByte (s : State) (a b c : Bool) :
    RaisesAlike s a b c (.next s.afterByte) (.next (s.withErrors a b c).afterByte) := by
  have hp : (s.withErrors a b c).phase = s.phase := rfl
  unfold State.afterByte
  rw [hp]
  cases s.phase with
  | fStream => exact raisesAlike_next_ite raisesAlike_quiet raisesAlike_quiet
  | idle | initSeq | zero | fColCmd | fColMin | fColMax | fRowCmd | fRowMin | fRowMax | fWram =>
    exact raisesAlike_quiet

theorem raisesAlike_offerByte (t : Transfer) (s : State) (a b c : Bool) :
    RaisesAlike s a b c (offerByte t s) (offerByte t (s.withErrors a b c)) := by
  refine raisesAlike_ite (raisesAlike_ite ?_ ?_) ?_
  · exact raisesAlike_failTransfer (State.transfer t { s with readyIn := s.readyIn.tail }) a b c
  · exact raisesAlike_afterByte (State.transfer t { s with readyIn := s.readyIn.tail }) a b c
  · exact raisesAlike_quiet

theorem raisesAlike_zeroStep (s : State) (a b c : Bool) :
    RaisesAlike s a b c (zeroStep s) (zeroStep (s.withErrors a b c)) := by
  by_cases hc : s.cursor < s.cfg.fbBytes
  · rw [zeroStep, zeroStep, memWrite_of hc,
      memWrite_of (s := s.withErrors a b c) (a := (s.withErrors a b c).cursor) hc]
    exact raisesAlike_ite (raisesAlike_quiet ⟨fun _ => rfl, rfl, rfl, rfl⟩) raisesAlike_quiet
  · rw [zeroStep, memWrite, if_neg hc]
    exact raisesAlike_fault _

theorem raisesAlike_runLatched (s : State) (a b c : Bool) :
    RaisesAlike s a b c (runLatched s) (runLatched (s.withErrors a b c)) := by
  have hl : (s.withErrors a b c).latched = s.latched := rfl
  unfold runLatched
  rw [hl]
  cases s.latched with
  | illegal why => exact raisesAlike_illegalWord s a b c
  | legal i =>
    cases i with
    | init => exact raisesAlike_beginCommand .init s a b c
    | flush => exact raisesAlike_beginCommand .flush s a b c
    | nop | setPixel x y v | fill v | getPixel x y => exact raisesAlike_finish (raisesAlike_exec _ s a b c)

theorem raisesAlike_sequencerStep (s : State) (a b c : Bool) :
    RaisesAlike s a b c (sequencerStep s) (sequencerStep (s.withErrors a b c)) := by
  have ho : (s.withErrors a b c).txOffer = s.txOffer := rfl
  have hp : (s.withErrors a b c).phase = s.phase := rfl
  unfold sequencerStep
  rw [ho, hp]
  cases s.txOffer with
  | some t => exact raisesAlike_offerByte t s a b c
  | none =>
    cases s.phase with
    | idle => exact raisesAlike_runLatched s a b c
    | zero => exact raisesAlike_zeroStep s a b c
    | fStream => exact raisesAlike_fault _
    | initSeq | fColCmd | fColMin | fColMax | fRowCmd | fRowMin | fRowMax | fWram =>
      exact raisesAlike_quiet

theorem raisesAlike_issue (w : Word) (s : State) (a b c : Bool) :
    RaisesAlike s a b c (issue w s) (issue w (s.withErrors a b c)) := by
  have hv : (s.withErrors a b c).view = s.view := rfl
  have hacc : s.KeepsFlags (s.accept w) := ⟨id, rfl, rfl, rfl⟩
  unfold issue
  rw [hv]
  refine RaisesAlike.after_quiet hacc ?_
  cases decode w with
  | illegal why => exact raisesAlike_illegalWord (s.accept w) a b c
  | legal i =>
    cases s.view with
    | bigStep => exact raisesAlike_finish (raisesAlike_exec i (s.accept w) a b c)
    | smallStep => exact raisesAlike_beginCommand i (s.accept w) a b c

theorem raisesAlike_runStep (s : State) (a b c : Bool) :
    RaisesAlike s a b c (runStep s) (runStep (s.withErrors a b c)) := by
  have hp : (s.withErrors a b c).program = s.program := rfl
  refine raisesAlike_ite (raisesAlike_sequencerStep s a b c) ?_
  rw [hp]
  cases s.program with
  | nil => exact raisesAlike_quiet
  | cons w rest => exact raisesAlike_issue w s a b c

/-- A step with `rst` deasserted (R154). -/
theorem raisesAlike_step (h : s.rstAsserted = false) (a b c : Bool) :
    RaisesAlike s a b c (step s) (step (s.withErrors a b c)) := by
  have hs : ¬ s.rstAsserted = true := by simp [h]
  refine raisesAlike_configured ?_
  rw [if_neg hs, if_neg (by exact hs)]
  exact raisesAlike_runStep s.popRst a b c

/-- `rst` overwrites the error flags (R170). -/
theorem step_withErrors_of_rst (h : s.rstAsserted = true) (a b c : Bool) :
    step (s.withErrors a b c) = step s := by
  rw [step, step, machineStep, machineStep, if_pos h, if_pos (by exact h)]
  rfl

end Sys2Proof.Machine

open Sys2Proof Sys2Proof.Machine

/-- Settles O37: each error flag after the step is the old one or a flag raised. -/
theorem flagsAreSticky : Obligations.FlagsAreSticky := by
  intro s t ht hr
  obtain ⟨hd, illegal, noinit, xfer, hi, hn, hx, -⟩ := raisesAlike_step hr false false false t ht
  refine ⟨fun h => ?_, fun h => ?_, fun h => ?_, hd⟩
  · rw [hi, h, Bool.or_true]
  · rw [hn, h, Bool.or_true]
  · rw [hx, h, Bool.or_true]

/-- Settles O38: with `rst` the flags are overwritten, and without it the step raises the same flags over any. -/
theorem errorFlagsAreNotRead : Obligations.ErrorFlagsAreNotRead := by
  intro s t a b c ht
  cases hr : s.rstAsserted with
  | true =>
    rw [step_withErrors_of_rst hr]
    exact ⟨t.status.errIllegal, t.status.errNoinit, t.status.errXfer, ht⟩
  | false =>
    obtain ⟨-, _, _, _, -, -, -, htwin⟩ := raisesAlike_step hr a b c t ht
    exact ⟨_, _, _, htwin⟩

end

section
/-! PROOFS. The registers at reset and as the host reads them (rules R24, R25, R33), and the step of an idle block
and of a stalled one (rules R30, R32, R144, R164, R186). -/

namespace Sys2Proof.Machine

variable {s : State}

/-! ### A step with `rst` deasserted -/

theorem step_of_rstLow (hc : s.cfg.WellFormed) (hr : s.rstAsserted = false) : step s = runStep s.popRst := by
  rw [step, machineStep, configured_of hc, hr]
  rfl

theorem runStep_busy (h : s.status.busy = true) : runStep s = sequencerStep s := if_pos h

theorem runStep_waiting (hb : s.status.busy = false) (hp : s.program = []) : runStep s = .next s := by
  rw [runStep, hb, hp]
  rfl

theorem runStep_issues {w : Word} {rest : List Word} (hb : s.status.busy = false) (hp : s.program = w :: rest) :
    runStep s = issue w s := by
  rw [runStep, hb, hp]
  rfl

theorem issue_bigStep {w : Word} {i : Instr} (hv : s.view = .bigStep) (hd : decode w = .legal i) :
    issue w s = finish (exec i (s.accept w)) := by
  rw [issue, hd, hv]

/-- An idle block runs the command that the word presented decodes to (R30, R144). -/
theorem step_runs_command {w : Word} {rest : List Word} {i : Instr} (hc : s.cfg.WellFormed)
    (hr : s.rstAsserted = false) (hb : s.status.busy = false) (hv : s.view = .bigStep)
    (hp : s.program = w :: rest) (hd : decode w = .legal i) :
    step s = finish (exec i (s.popRst.accept w)) := by
  rw [step_of_rstLow hc hr, runStep_issues (s := s.popRst) hb hp, issue_bigStep (s := s.popRst) hv hd]

theorem decode_of_decodeTableWord {nbits w : Nat} {i : Instr} (h : decodeTableWord nbits w = some i) :
    decode (tableWord nbits w) = .legal i := by
  unfold decodeTableWord at h
  split at h
  next j hj =>
    cases h
    exact hj
  next => cases h

/-! ### A byte offered that the sink does not take -/

theorem busy_of_txOffer {b : Transfer} (h : s.txOffer = some b) : s.status.busy = true := by
  unfold State.txOffer at h
  split at h
  · assumption
  · cases h

/-- A stalled block uses up the sample of `tx_ready` and waits (R32). -/
theorem runStep_stalled {b : Transfer} (ho : s.txOffer = some b) (hr : s.readyIn.head?.getD s.readyAfter = false) :
    runStep s = .next { s with readyIn := s.readyIn.tail } := by
  rw [runStep_busy (busy_of_txOffer ho), sequencerStep, ho]
  exact if_neg (by simp [hr])

/-- A block that offers a byte to a dead sink is at rest (R186). -/
theorem step_dead_sink {b : Transfer} (hc : s.cfg.WellFormed) (hr : s.rstIn = []) (ho : s.txOffer = some b)
    (hi : s.readyIn = []) (ha : s.readyAfter = false) : step s = .next s := by
  have hs : { s with readyIn := s.readyIn.tail } = s := by
    cases s
    simp_all
  rw [step_of_no_reset hc hr, runStep_stalled ho (by simp [hi, ha]), hs]

/-! ### The registers bit by bit -/

/-- The layout of `STATUS` (R24), over the 2 ^ 6 values of its bits and of the kind of transport. -/
theorem Status.word_getLsbD (fallible : Bool) (st : Status) :
    (st.word fallible).getLsbD 0 = st.initDone ∧ (st.word fallible).getLsbD 1 = st.busy ∧
      (st.word fallible).getLsbD 2 = st.errIllegal ∧ (st.word fallible).getLsbD 3 = st.errNoinit ∧
      (st.word fallible).getLsbD 4 = (st.errXfer && fallible) ∧ (st.word fallible).getLsbD 5 = false ∧
      (st.word fallible).getLsbD 6 = false ∧ (st.word fallible).getLsbD 7 = false := by
  obtain ⟨initDone, busy, errIllegal, errNoinit, errXfer⟩ := st
  revert fallible initDone busy errIllegal errNoinit errXfer
  decide

theorem Resp.word_hit (r : Resp) : r.word.getLsbD 8 = r.hit :=
  BitVec.getLsbD_append.trans (by simp)

theorem Resp.word_native (r : Resp) : r.word.extractLsb' 0 8 = r.native :=
  BitVec.extractLsb'_append_eq_right

end Sys2Proof.Machine

open Sys2Proof Sys2Proof.Machine

/-- Settles O2: the fixed reset state, computed. -/
theorem resetRegisterValues : Obligations.ResetRegisterValues :=
  ⟨rfl, rfl, rfl, rfl, rfl, rfl, rfl⟩

/-- Settles O41, by the layouts of `Status.word` and `Resp.word`. -/
theorem statusAndRespBits : Obligations.StatusAndRespBits := by
  intro s
  obtain ⟨h0, h1, h2, h3, h4, h5, h6, h7⟩ := s.status.word_getLsbD s.cfg.fallible
  exact ⟨h0, h1, h2, h3, h4, h5, h6, h7, s.resp.word_hit, s.resp.word_native⟩

/-- Settles O42: the step issues the word presented, and `withFetchWord` presents its word first. -/
theorem stepRunsDecodedCommand : Obligations.StepRunsDecodedCommand := by
  refine ⟨fun s w rest i hc hr hb hv hp hd => ?_, fun s nbits w i hc hd => ?_⟩
  · have hstep := step_runs_command hc hr hb hv hp hd
    refine ⟨hstep, fun t ht => ⟨fun hi => ?_, fun hw => ?_⟩⟩
    · rw [hstep, ht, finish_idle hi]
    · rw [hstep, ht, finish_walking hw]
  · exact step_runs_command (s := s.withFetchWord nbits w) hc rfl rfl rfl rfl (decode_of_decodeTableWord hd)

/-- Settles O45: an idle step with no word and a stalled step change no more than the samples of `tx_ready`, so
a block whose sink is dead is at a fixed point of `step`. -/
theorem idleAndStalledStepsWait : Obligations.IdleAndStalledStepsWait := by
  intro s hc hr
  refine ⟨fun hb hp => ?_, fun b later ho hi => ⟨?_, ho⟩, fun b ho hi ha => ?_⟩
  · rw [step_of_no_reset hc hr, runStep_waiting hb hp]
  · rw [step_of_no_reset hc hr, runStep_stalled ho (by simp [hi]), hi]
    rfl
  · have hfix := step_dead_sink hc hr ho hi ha
    exact ⟨busy_of_txOffer ho, hfix, run_of_fixed hfix⟩

end

section
/-! PROOFS. No command and no step of a run stops at a checked access to `storage` (rules R40, R50). -/

namespace Sys2Proof.Machine

variable {s : State} {k : Host.Outcome State Fault Refusal}

/-- The outcome is a next state: the step or command neither faults nor is refused. -/
def Answers (k : Host.Outcome State Fault Refusal) : Prop := ∃ t, k = .next t

theorem answers_next (s : State) : Answers (.next s) := ⟨s, rfl⟩

theorem Answers.ne_fault (h : Answers k) (r : Fault) : k ≠ .fault r := by
  obtain ⟨t, rfl⟩ := h
  nofun

theorem answers_configured (h : s.cfg.WellFormed) (hk : Answers k) : Answers (configured s k) := by
  rwa [configured_of h]

theorem answers_memRead {a : Nat} {next : Byte → Host.Outcome State Fault Refusal} (ha : a < s.cfg.fbBytes)
    (h : Answers (next (s.readByte a))) : Answers (memRead s a next) := by
  rwa [memRead_of ha]

theorem answers_memWrite {a : Nat} (ha : a < s.cfg.fbBytes) (v : Byte) : Answers (memWrite s a v) :=
  ⟨_, memWrite_of ha⟩

theorem answers_finish (h : Answers k) : Answers (finish k) := by
  obtain ⟨t, rfl⟩ := h
  exact answers_next _

/-! ### Commands -/

/-- Every command of a well-formed configuration answers a next state: the bounds check comes before the
address (R50, R84). -/
theorem answers_exec (h : s.cfg.WellFormed) (i : Instr) : Answers (exec i s) := by
  cases i with
  | nop | init | fill v => exact answers_configured h (answers_next _)
  | setPixel x y v =>
    refine answers_configured h ?_
    split
    next hin => exact answers_memRead (addr_lt h hin) (answers_memWrite (addr_lt h hin) _)
    next => exact answers_next s
  | flush =>
    refine answers_configured h ?_
    split <;> exact answers_next _
  | getPixel x y =>
    refine answers_configured h ?_
    split
    next hin => exact answers_memRead (addr_lt h hin) (answers_next _)
    next => exact answers_next _

theorem exec_setPixel_outside (h : s.cfg.WellFormed) {x y : Coord} (hout : inRange s.cfg x y = false) (v : Byte) :
    exec (.setPixel x y v) s = .next s := by
  obtain ⟨t, ht⟩ := answers_exec h (.setPixel x y v)
  rw [ht]
  cases exec_result ht with
  | pixelSet inside => exact absurd (inside.symm.trans hout) (by decide)
  | pixelOutside => rfl

/-! ### Steps -/

theorem answers_illegalWord (h : s.cfg.WellFormed) : Answers (illegalWord s) :=
  answers_configured h (answers_next _)

theorem answers_beginCommand (i : Instr) (s : State) : Answers (beginCommand i s) := by
  cases i with
  | flush =>
    simp only [beginCommand]
    split <;> exact answers_next _
  | nop | init | setPixel x y v | fill v | getPixel x y => exact answers_next _

theorem answers_offerByte (b : Transfer) (s : State) : Answers (offerByte b s) := by
  unfold offerByte
  split
  · split <;> exact answers_next _
  · exact answers_next _

/-- The two phases that access `storage` at the cursor keep it below `FB_BYTES` (R121). -/
theorem State.cursorInBounds.lt_fbBytes (h : s.cursorInBounds) (hp : s.phase = .zero ∨ s.phase = .fStream) :
    s.cursor < s.cfg.fbBytes := by
  unfold State.cursorInBounds at h
  obtain hp | hp := hp <;> rwa [hp] at h

theorem answers_zeroStep (h : s.cursor < s.cfg.fbBytes) : Answers (zeroStep s) := by
  obtain hlast | hmore := Nat.eq_or_lt_of_le (Nat.succ_le_of_lt h)
  · exact ⟨_, zeroStep_last hlast⟩
  · exact ⟨_, zeroStep_more hmore⟩

/-- A streaming block offers the byte at its cursor (R119, R121). -/
theorem txOffer_streaming (hb : s.status.busy = true) (hp : s.phase = .fStream) (h : s.cursor < s.cfg.fbBytes) :
    s.txOffer = some ⟨true, true, decide (s.cursor = s.cfg.fbBytes - 1), s.readByte s.cursor⟩ := by
  rw [State.txOffer, if_pos hb, hp]
  exact if_pos h

theorem answers_runLatched (h : s.cfg.WellFormed) : Answers (runLatched s) := by
  unfold runLatched
  split
  next => exact answers_illegalWord h
  next => exact answers_beginCommand .init s
  next => exact answers_beginCommand .flush s
  all_goals exact answers_finish (answers_exec h _)

/-- A busy block goes on: with the cursor in bounds, the zero-fill's access lies in `storage`, and the stream
never runs past it. -/
theorem answers_sequencerStep (h : s.cfg.WellFormed) (hb : s.status.busy = true) (hcur : s.cursorInBounds) :
    Answers (sequencerStep s) := by
  unfold sequencerStep
  cases ho : s.txOffer with
  | some b => exact answers_offerByte b s
  | none =>
    cases hp : s.phase with
    | idle => exact answers_runLatched h
    | zero => exact answers_zeroStep (hcur.lt_fbBytes (.inl hp))
    | fStream =>
      rw [txOffer_streaming hb hp (hcur.lt_fbBytes (.inr hp))] at ho
      cases ho
    | initSeq | fColCmd | fColMin | fColMax | fRowCmd | fRowMin | fRowMax | fWram => exact answers_next _

theorem answers_issue (h : s.cfg.WellFormed) (w : Word) : Answers (issue w s) := by
  have ha : (s.accept w).cfg.WellFormed := h
  unfold issue
  split
  next => exact answers_illegalWord ha
  next i _ =>
    cases s.view with
    | bigStep => exact answers_finish (answers_exec ha i)
    | smallStep => exact answers_beginCommand i _

theorem answers_runStep (h : s.cfg.WellFormed) (hcur : s.cursorInBounds) : Answers (runStep s) := by
  unfold runStep
  split
  next hb => exact answers_sequencerStep h hb hcur
  next =>
    split
    next => exact answers_next s
    next w _ _ => exact answers_issue h w

/-- Every step of a run answers a next state, in either view. -/
theorem RunInv.answers_step (h : RunInv s) : Answers (step s) := by
  refine answers_configured h.configured ?_
  split
  · exact answers_next _
  · exact answers_runStep (s := s.popRst) h.configured h.cursor

end Sys2Proof.Machine

open Sys2Proof Sys2Proof.Machine

/-- Settles O7: an in-range address lies in `storage` and the walk's cursor stays in bounds, so commands and
steps answer next states; an ill-formed configuration refuses its commands, which is no fault. -/
theorem noAddressOutsideStorage : Obligations.NoAddressOutsideStorage := by
  refine ⟨fun c x y hc hin => addr_lt hc hin, fun i s r => ?_, fun s r h => h.answers_step.ne_fault r,
    fun s x y v hc hout => exec_setPixel_outside hc hout v⟩
  by_cases hc : s.cfg.WellFormed
  · exact (answers_exec hc i).ne_fault r
  · rw [exec_refuses hc i]
    nofun

end

section
/-! PROOFS. The decoder, the encoder and the opcode table (rules R60 to R67, R75): which words decode to a command,
said once, and what follows from it. -/

namespace Sys2Proof

variable {w : Word} {i : Instr} {op rsv : BitVec 4} {v : Byte} {y x : Coord}

/-- The words of each command: its operands in their fields, any value in a field that it does not use
(R61, R65). -/
inductive WordOf : Instr → Word → Prop
  | nop (v : Byte) (y x : Coord) : WordOf .nop (wordOfFields 0 0 v y x)
  | init (v : Byte) (y x : Coord) : WordOf .init (wordOfFields 1 0 v y x)
  | setPixel (x y : Coord) (v : Byte) : WordOf (.setPixel x y v) (wordOfFields 2 0 v y x)
  | fill (v : Byte) (y x : Coord) : WordOf (.fill v) (wordOfFields 3 0 v y x)
  | flush (v : Byte) (y x : Coord) : WordOf .flush (wordOfFields 4 0 v y x)
  | getPixel (x y : Coord) (v : Byte) : WordOf (.getPixel x y) (wordOfFields 5 0 v y x)

/-- Words are equal exactly where each field is. -/
theorem wordOfFields_inj {op' rsv' : BitVec 4} {v' : Byte} {y' x' : Coord} :
    wordOfFields op rsv v y x = wordOfFields op' rsv' v' y' x' ↔
      op = op' ∧ rsv = rsv' ∧ v = v' ∧ y = y' ∧ x = x' := by
  refine ⟨fun h => ⟨?_, ?_, ?_, ?_, ?_⟩, by rintro ⟨rfl, rfl, rfl, rfl, rfl⟩; rfl⟩
  · simpa using congrArg fieldOp h
  · simpa using congrArg fieldRsv h
  · simpa using congrArg fieldI h
  · simpa using congrArg fieldY h
  · simpa using congrArg fieldX h

/-! ### The decoder on the word of given fields -/

theorem decode_wordOfFields (op : BitVec 4) (v : Byte) (y x : Coord) :
    decode (wordOfFields op 0 v y x) = decodeFields op v y x := by simp [decode]

theorem decode_of_rsv_ne_zero (h : fieldRsv w ≠ 0) : decode w = .illegal .reservedField := if_neg h

theorem decodeFields_of_six_le (h : 6 ≤ op.toNat) : decodeFields op v y x = .illegal .reservedOpcode := by
  unfold decodeFields
  split
  case h_7 => rfl
  all_goals omega

/-- The opcodes that are not reserved (R61). -/
theorem opcode_of_lt_six :
    ∀ op : BitVec 4, op.toNat < 6 → op = 0 ∨ op = 1 ∨ op = 2 ∨ op = 3 ∨ op = 4 ∨ op = 5 := by
  decide

theorem exists_wordOf (h : op.toNat < 6) (v : Byte) (y x : Coord) : ∃ i, WordOf i (wordOfFields op 0 v y x) := by
  obtain rfl | rfl | rfl | rfl | rfl | rfl := opcode_of_lt_six op h
  · exact ⟨_, .nop v y x⟩
  · exact ⟨_, .init v y x⟩
  · exact ⟨_, .setPixel x y v⟩
  · exact ⟨_, .fill v y x⟩
  · exact ⟨_, .flush v y x⟩
  · exact ⟨_, .getPixel x y v⟩

/-! ### Which words are commands -/

theorem WordOf.decode (h : WordOf i w) : decode w = .legal i := by
  cases h <;> exact decode_wordOfFields ..

theorem WordOf.fields (h : WordOf i w) : fieldRsv w = 0 ∧ (fieldOp w).toNat < 6 := by
  cases h <;> simp

theorem exists_wordOf_of_fields (hr : fieldRsv w = 0) (ho : (fieldOp w).toNat < 6) : ∃ i, WordOf i w := by
  obtain ⟨i, hi⟩ := exists_wordOf ho (fieldI w) (fieldY w) (fieldX w)
  rw [← hr, wordOfFields_fields] at hi
  exact ⟨i, hi⟩

/-- A word is legal or illegal by its two highest fields alone (R64, R66). -/
theorem wordOf_or_illegal (w : Word) :
    (∃ i, WordOf i w) ∨ (fieldRsv w ≠ 0 ∨ 6 ≤ (fieldOp w).toNat) ∧ ∃ why, decode w = .illegal why := by
  by_cases hr : fieldRsv w = 0
  · by_cases ho : (fieldOp w).toNat < 6
    · exact .inl (exists_wordOf_of_fields hr ho)
    · have ho : 6 ≤ (fieldOp w).toNat := Nat.not_lt.mp ho
      exact .inr ⟨.inr ho, _, (if_pos hr).trans (decodeFields_of_six_le ho)⟩
  · exact .inr ⟨.inl hr, _, decode_of_rsv_ne_zero hr⟩

/-- The decoder answers a command for the words of that command, and for no other word. -/
theorem decode_eq_legal_iff : decode w = .legal i ↔ WordOf i w := by
  refine ⟨fun h => ?_, WordOf.decode⟩
  obtain ⟨j, hj⟩ | ⟨-, why, hill⟩ := wordOf_or_illegal w
  · rw [hj.decode] at h
    cases h
    exact hj
  · rw [hill] at h
    cases h

theorem exists_decode_legal_iff :
    (∃ i, decode w = .legal i) ↔ fieldRsv w = 0 ∧ (fieldOp w).toNat < 6 := by
  simp only [decode_eq_legal_iff]
  exact ⟨fun ⟨_, h⟩ => h.fields, fun ⟨hr, ho⟩ => exists_wordOf_of_fields hr ho⟩

theorem exists_decode_illegal_iff :
    (∃ why, decode w = .illegal why) ↔ fieldRsv w ≠ 0 ∨ 6 ≤ (fieldOp w).toNat := by
  obtain ⟨i, hi⟩ | ⟨hfields, hill⟩ := wordOf_or_illegal w
  · obtain ⟨hr, ho⟩ := hi.fields
    simp [hi.decode, hr, ho]
  · exact iff_of_true hill hfields

/-! ### The encoder and the opcode table -/

theorem wordOf_encode (i : Instr) : WordOf i (encode i) := by
  cases i with
  | nop => exact .nop 0 0 0
  | init => exact .init 0 0 0
  | setPixel x y v => exact .setPixel x y v
  | fill v => exact .fill v 0 0
  | flush => exact .flush 0 0 0
  | getPixel x y => exact .getPixel x y 0

/-- The canonical word is the one whose unused fields are zero (R65, R75). -/
theorem WordOf.encode_eq_iff (h : WordOf i w) : encode i = w ↔ Machine.unusedZero w i := by
  rw [eq_comm]
  cases h <;> simp [encode, Machine.unusedZero, wordOfFields_inj]

/-- A command's words agree with its row's `match` under the mask (R61). -/
theorem WordOf.and_tableMask (h : WordOf i w) : w &&& tableMask = tableMatch i := by
  cases h <;> exact Laws.TableRow.mask_word ..

/-- What the mask keeps of a word is what the decoder judges it by. -/
theorem fields_and_tableMask (w : Word) :
    fieldOp (w &&& tableMask) = fieldOp w ∧ fieldRsv (w &&& tableMask) = fieldRsv w := by
  simp [and_tableMask]

theorem fields_tableMatch (i : Instr) : fieldRsv (tableMatch i) = 0 ∧ (fieldOp (tableMatch i)).toNat < 6 := by
  obtain ⟨hop, hrsv⟩ := fields_and_tableMask (encode i)
  rw [← (wordOf_encode i).and_tableMask, hop, hrsv]
  exact (wordOf_encode i).fields

/-- A word that agrees with a row's `match` under the mask is a word of some command. -/
theorem exists_wordOf_of_and_tableMask (h : w &&& tableMask = tableMatch i) : ∃ j, WordOf j w := by
  obtain ⟨hop, hrsv⟩ := fields_and_tableMask w
  obtain ⟨hr, ho⟩ := fields_tableMatch i
  rw [h] at hop hrsv
  exact exists_wordOf_of_fields (hrsv ▸ hr) (hop ▸ ho)

/-- Bits 47:40 of a word are `op` above `rsv` (R60). -/
theorem extractLsb'_eq_op_append_rsv (w : Word) : w.extractLsb' 40 8 = fieldOp w ++ fieldRsv w :=
  (BitVec.extractLsb'_append_extractLsb'_eq_extractLsb' (start₁ := 40) (len₁ := 4) (len₂ := 4) rfl).symm

/-- The six values of bits 47:40 in R66 are `rsv` zero and `op` not reserved. -/
theorem op_append_rsv_mem_iff : ∀ op rsv : BitVec 4,
    op ++ rsv ∈ ([0x00, 0x10, 0x20, 0x30, 0x40, 0x50] : List Byte) ↔ rsv = 0 ∧ op.toNat < 6 := by decide

end Sys2Proof

open Sys2Proof

/-- Settles O9: an encoded command is one of its command's words, and a word of a command differs from the
encoded one at most in the fields that the command does not use. -/
theorem decodeEncodeRoundTrip : Obligations.DecodeEncodeRoundTrip :=
  ⟨fun i => (wordOf_encode i).decode, fun _ _ h => (decode_eq_legal_iff.mp h).encode_eq_iff⟩

/-- Settles O8: each command's words leave the unused fields free, and `rsv` and `op` alone make a word illegal. -/
theorem decodeReadsTheFields : Obligations.DecodeReadsTheFields := by
  intro op rsv v y x
  refine ⟨wordOfFields_toNat .., fun hr => ?_, (WordOf.nop v y x).decode, (WordOf.init v y x).decode,
    (WordOf.setPixel x y v).decode, (WordOf.fill v y x).decode, (WordOf.flush v y x).decode,
    (WordOf.getPixel x y v).decode, fun ho => ?_⟩
  · exact exists_decode_illegal_iff.mpr (.inl (by simpa using hr))
  · exact exists_decode_illegal_iff.mpr (.inr (by simpa using ho))

/-- Settles O10: the mask keeps `op` and `rsv`, which say whether a word is a command and of which row. -/
theorem opcodeTableRows : Obligations.OpcodeTableRows := by
  refine ⟨⟨rfl, rfl, fun _ _ _ => rfl, fun _ => rfl, rfl, fun _ _ => rfl⟩, by decide, fun w i h => ?_,
    fun w j h => ?_⟩
  · exact (decode_eq_legal_iff.mp h).and_tableMask
  · obtain ⟨i, hi⟩ := exists_wordOf_of_and_tableMask h
    exact ⟨i, hi.decode, hi.and_tableMask.symm.trans h⟩

/-- Settles O11: bits 47:40 are `op` above `rsv`, by which the decoder tells legal words from illegal ones. -/
theorem legalWordsAreExactlyThese : Obligations.LegalWordsAreExactlyThese := by
  intro w
  rw [extractLsb'_eq_op_append_rsv, op_append_rsv_mem_iff]
  exact ⟨exists_decode_legal_iff, exists_decode_illegal_iff⟩

end

section
/-! PROOFS. The assembler (rules R73, R74): operands in their ranges keep their values, and the intensity that
SETNATIVE writes quantises to the native value named. -/

namespace Sys2Proof

variable {c : Config} {a : Asm} {v : Int}

theorem Asm.Coordinate.toInt_ofInt (h : Coordinate v) : (BitVec.ofInt 16 v).toInt = v :=
  BitVec.toInt_ofInt_eq_self (by decide) h.1 (Int.lt_of_le_of_lt h.2 (by decide))

theorem Asm.Intensity.toNat_ofInt (h : Intensity v) : ((BitVec.ofInt 8 v).toNat : Int) = v := by
  obtain ⟨h0, h255⟩ := h
  rw [BitVec.toNat_ofInt]
  omega

/-- An operand outside its range is an assembly error, and nothing else is (R73). -/
theorem assemble_eq_none_iff : assemble c a = none ↔ a.wellFormed c = false := by
  unfold assemble
  split <;> simp_all

/-- The greatest native value stands for the greatest intensity (R8, R74). -/
theorem Asm.intensity_mul_stepSize (hc : c.WellFormed) (h0 : 0 ≤ v) (h : v ≤ c.maxNative) :
    Intensity (v * c.stepSize) := by
  have hstep : (c.maxNative : Int) * c.stepSize = 255 := by
    exact_mod_cast (Nat.mul_comm _ _).trans hc.stepSize_mul_maxNative
  refine ⟨Int.mul_nonneg h0 (Int.natCast_nonneg _), ?_⟩
  rw [← hstep]
  exact Int.mul_le_mul_of_nonneg_right h (Int.natCast_nonneg _)

/-- The intensity `q·STEP` quantises to `q` (R74, R80). -/
theorem Machine.quant_toNat_of_mul_stepSize (hc : c.WellFormed) {b : Byte} {q : Nat} (hq : q ≤ c.maxNative)
    (hb : b.toNat = q * c.stepSize) : (quant c b).toNat = q := by
  have hprod : b.toNat * c.maxNative / 255 = q := by
    rw [hb, Nat.mul_assoc, hc.stepSize_mul_maxNative, Nat.mul_div_cancel _ (by decide)]
  have hmask : q &&& c.maxNative = q :=
    Nat.and_two_pow_sub_one_of_lt_two_pow ((Nat.lt_iff_le_pred (Nat.two_pow_pos _)).mpr hq)
  rw [quant, hprod, hmask, BitVec.toNat_ofNat]
  exact Nat.mod_eq_of_lt (Nat.lt_succ_of_le (hq.trans hc.maxNative_le))

/-- SETNATIVE writes the native value that it names (R74). -/
theorem Machine.quant_ofInt_mul_stepSize (hc : c.WellFormed) (h0 : 0 ≤ v) (h : v ≤ c.maxNative) :
    ((quant c (BitVec.ofInt 8 (v * c.stepSize))).toNat : Int) = v := by
  have hval := (Asm.intensity_mul_stepSize hc h0 h).toNat_ofInt
  lift v to Nat using h0
  exact congrArg _ (quant_toNat_of_mul_stepSize hc (by exact_mod_cast h) (by exact_mod_cast hval))

end Sys2Proof

open Sys2Proof Sys2Proof.Machine

/-- Settles O13: the assembler checks exactly the ranges in which `ofInt` keeps the value, and `STEP · MAXNATIVE`
is 255, so that quantising undoes SETNATIVE's scaling. -/
theorem assemblerRanges : Obligations.AssemblerRanges := by
  intro c hc
  refine ⟨fun x y i h => ?kept, fun x y i h => ?_, fun i h => ?_, fun x y h => ?_, fun x y q h => ?_, rfl, rfl,
    rfl, rfl, fun x y q h => ?native⟩
  case kept =>
    obtain ⟨hx0, hx, hy0, hy, hi⟩ := h
    have hx : Asm.Coordinate x := ⟨hx0, hx⟩
    have hy : Asm.Coordinate y := ⟨hy0, hy⟩
    exact ⟨_, _, _, hx.toInt_ofInt, hy.toInt_ofInt, Asm.Intensity.toNat_ofInt hi,
      if_pos (decide_eq_true ⟨hx, hy, hi⟩), if_pos (decide_eq_true hi), if_pos (decide_eq_true ⟨hx, hy⟩)⟩
  case native =>
    obtain ⟨hx0, hx, hy0, hy, hq0, hq⟩ := h
    have hx : Asm.Coordinate x := ⟨hx0, hx⟩
    have hy : Asm.Coordinate y := ⟨hy0, hy⟩
    exact ⟨_, _, _, hx.toInt_ofInt, hy.toInt_ofInt, (Asm.intensity_mul_stepSize hc hq0 hq).toNat_ofInt,
      if_pos (decide_eq_true ⟨hx, hy, hq0, hq⟩), quant_ofInt_mul_stepSize hc hq0 hq⟩
  all_goals exact assemble_eq_none_iff.mpr (decide_eq_false (by tauto))

end

section
/-! PROOFS. Events and their transfers (rules R27, R68, R69, R72, R111): what one event sends, the events read
back from the transfers, and what INIT sends ahead of its flush. -/

namespace Sys2Proof.Machine

variable {s : State}

/-! ### The transfers of a bulk -/

theorem getElem?_bulkTransfers_eq_some_iff (bs : List Byte) (n : Nat) (t : Transfer) :
    (bulkTransfers bs)[n]? = some t ↔
      ∃ b, bs[n]? = some b ∧ t.dc = true ∧ t.bulk = true ∧ (t.last = true ↔ n + 1 = bs.length) ∧ t.byte = b := by
  obtain ⟨dc, bulk, last, byte⟩ := t
  rw [bulkTransfers_getElem?, Option.map_eq_some_iff]
  refine exists_congr fun b => and_congr_right fun _ => ?_
  rw [eq_comm, Transfer.mk.injEq, Bool.eq_iff_iff (a := last), decide_eq_true_iff]

theorem flattened_bulkTransfers (bs : List Byte) : flattened (bulkTransfers bs) = bs.map fun b => (true, b) := by
  induction bs with
  | nil => rfl
  | cons b bs ih => exact congrArg ((true, b) :: ·) ih

/-! ### The events read off the transfers -/

/-- The events once a bulk byte that does not end its run is put before them: the byte joins a run that follows
at once, and is a run of its own otherwise. -/
def joinBulk (b : Byte) : List Event → List Event
  | .bulk bs :: es => .bulk (b :: bs) :: es
  | es => .bulk [b] :: es

theorem eventsOf_open (b : Byte) (ts : List Transfer) :
    eventsOf (⟨true, true, false, b⟩ :: ts) = joinBulk b (eventsOf ts) := rfl

theorem joinBulk_append (b : Byte) {es : List Event} (h : ∀ bs, es.head? ≠ some (.bulk bs)) (before : List Event) :
    joinBulk b (before ++ es) = joinBulk b before ++ es := by
  match before, es with
  | .bulk _ :: _, _ | .cmd _ :: _, _ | .data _ :: _, _ => rfl
  | [], [] | [], .cmd _ :: _ | [], .data _ :: _ => rfl
  | [], .bulk bs :: _ => exact absurd rfl (h bs)

/-- A `Bulk` event ends at its `tx_last`, whatever follows it (R69). -/
theorem eventsOf_bulkTransfers_append {bs : List Byte} (h : bs ≠ []) (ts : List Transfer) :
    eventsOf (bulkTransfers bs ++ ts) = .bulk bs :: eventsOf ts := by
  induction bs with
  | nil => exact absurd rfl h
  | cons b bs ih =>
    cases bs with
    | nil => rfl
    | cons b' bs =>
      calc eventsOf (⟨true, true, false, b⟩ :: (bulkTransfers (b' :: bs) ++ ts))
          = joinBulk b (eventsOf (bulkTransfers (b' :: bs) ++ ts)) := eventsOf_open ..
        _ = .bulk (b :: b' :: bs) :: eventsOf ts := by rw [ih (List.cons_ne_nil _ _)]; rfl

theorem eventsOf_transfersOf {es : List Event} (h : ∀ bs, Event.bulk bs ∈ es → bs ≠ []) :
    eventsOf (transfersOf es) = es := by
  induction es with
  | nil => rfl
  | cons e es ih =>
    have ih := ih fun bs hbs => h bs (List.mem_cons_of_mem _ hbs)
    rw [transfersOf_cons]
    cases e with
    | cmd b | data b => simp [Event.transfers, eventsOf, ih]
    | bulk bs =>
      rw [Event.transfers, eventsOf_bulkTransfers_append (h bs List.mem_cons_self), ih]

/-- Transfers whose events do not begin with a bulk do not join what was sent before them (R27, log 11). -/
theorem eventsOf_append {ts' : List Transfer} (h : ∀ bs, (eventsOf ts').head? ≠ some (.bulk bs))
    (ts : List Transfer) : eventsOf (ts ++ ts') = eventsOf ts ++ eventsOf ts' := by
  induction ts with
  | nil => rfl
  | cons t ts ih =>
    match t with
    | ⟨false, _, _, b⟩ | ⟨true, false, _, b⟩ | ⟨true, true, true, b⟩ => simp [eventsOf, ih]
    | ⟨true, true, false, b⟩ =>
      rw [List.cons_append, eventsOf_open, eventsOf_open, ih, joinBulk_append b h]

/-! ### INIT's sequence -/

theorem initEvents_cons {c : Config} {b : Byte} {ds : List Byte} {rest : List (Byte × List Byte)}
    (h : c.initSeq = (b, ds) :: rest) :
    initEvents c = .cmd b :: ds.map .data ++ initEvents { c with initSeq := rest } := by
  rw [initEvents, h, List.flatMap_cons]
  rfl

theorem transfersOf_data (ds : List Byte) :
    transfersOf (ds.map .data) = ds.map fun d => ⟨true, false, false, d⟩ := by
  induction ds with
  | nil => rfl
  | cons d ds ih => simp [Event.transfers, ih]

/-- The transfers of the sequence, entry by entry (R69, R72). -/
theorem transfersOf_initEvents (c : Config) :
    transfersOf (initEvents c) = c.initSeq.flatMap fun e =>
      ⟨false, false, false, e.1⟩ :: e.2.map fun d => ⟨true, false, false, d⟩ := by
  rw [initEvents, transfersOf, List.flatMap_assoc]
  congr 1
  funext e
  exact congrArg (_ :: ·) (transfersOf_data e.2)

/-! ### An infallible transport -/

/-- After the zero-fill the stream is zeros (R112). -/
theorem streamBytes_zeroFilled (s : State) : (zeroFilled s).streamBytes = List.replicate s.cfg.fbBytes 0 := by
  refine List.eq_replicate_iff.mpr ⟨State.streamBytes_length _, fun b hb => ?_⟩
  obtain ⟨a, ha, rfl⟩ := List.mem_map.mp hb
  rw [State.readByte_zeroFilled]
  exact if_pos (List.mem_range.mp ha)

/-- With a transport that fails no transfer a flush sends all its events and completes (R116). -/
theorem flushState_infallible (h : s.cfg.fallible = false) :
    flushState s = (s.sent (transfersOf (flushEvents s.cfg s.streamBytes))
      (samplesAfter (transfersOf (flushEvents s.cfg s.streamBytes)).length s.readyIn) s.failIn).flushDone :=
  flushState_of_transmit (transmit_infallible _ s h)

/-- With a transport that fails no transfer INIT sends the sequence and then flushes the zeros (R112). -/
theorem initState_infallible (h : s.cfg.fallible = false) :
    initState s = flushState (zeroFilled (s.sent (transfersOf (initEvents s.cfg))
      (samplesAfter (transfersOf (initEvents s.cfg)).length s.readyIn) s.failIn)) :=
  initState_of_transmit (transmit_infallible _ s h)

theorem exec_init_of_ready (hc : s.cfg.WellFormed) (hr : s.readyAfter = true) :
    exec .init s = .next (initState s) :=
  (configured_of hc).trans (congrArg _ (if_pos hr))

theorem initState_wire (h : s.cfg.fallible = false) :
    (initState s).wire = s.wire ++ transfersOf (initEvents s.cfg) ++
      transfersOf (flushEvents s.cfg (List.replicate s.cfg.fbBytes 0)) := by
  rw [initState_infallible h, flushState_infallible, streamBytes_zeroFilled]
  · rfl
  · exact h

end Sys2Proof.Machine

open Sys2Proof Sys2Proof.Machine

/-- Settles O29: a list of events without an empty bulk is read back from its transfers, and one that begins with
no bulk does not join the events before it. -/
theorem eventsReadOffTheWire : Obligations.EventsReadOffTheWire := by
  intro ts es hne hhead
  have hread : eventsOf (transfersOf es) = es := eventsOf_transfersOf hne
  rw [eventsOf_append (by rwa [hread]), hread]

/-- Settles O52: the sequence's transfers entry by entry, and INIT with an infallible transport, which sends the
sequence and then flushes zeros. -/
theorem initSequenceOnTheWire : Obligations.InitSequenceOnTheWire := by
  refine ⟨fun c h => by rw [initEvents, h]; rfl, fun c b ds rest h => ⟨initEvents_cons h, ?_⟩, fun c => ?_,
    fun s hc hf hr => ⟨_, exec_init_of_ready hc hr, ?_⟩⟩
  · rw [initEvents_cons h, transfersOf_append, transfersOf_cons, transfersOf_data]
    rfl
  · simp [transfersOf_initEvents, List.length_flatMap, Nat.add_comm]
  · rw [initState_wire hf, transfersOf_initEvents]

/-- Settles O53: each event's transfers as R69 lists them, and the flattened trace event by event. -/
theorem eventTransfers : Obligations.EventTransfers := by
  refine ⟨fun _ => rfl, fun _ => rfl, getElem?_bulkTransfers_eq_some_iff, bulkTransfers_length, fun es => ?_⟩
  rw [flattened, transfersOf, List.map_flatMap]
  congr 1
  funext e
  cases e with
  | cmd b | data b => rfl
  | bulk bs => exact flattened_bulkTransfers bs

end

section
/-! PROOFS. The quantiser (rules R80, R81) and the address generator (rules R84, R85): intensities in groups of
`STEP`, and one pixel for every field of `storage`. -/

namespace Sys2Proof.Machine

variable {c : Config}

/-! ### The quantiser -/

theorem maxNative_pos (h : c.WellFormed) : 0 < c.maxNative :=
  Nat.pos_of_ne_zero fun h0 => by simpa [h0] using h.stepSize_mul_maxNative

/-- The quotient never exceeds `MAXNATIVE`, so the mask of R80 cuts nothing off. -/
theorem quant_toNat (h : c.WellFormed) (i : Byte) : (quant c i).toNat = i.toNat * c.maxNative / 255 := by
  have hle : i.toNat * c.maxNative / 255 ≤ c.maxNative :=
    Nat.div_le_of_le_mul (Nat.mul_le_mul_right _ (Nat.le_of_lt_succ i.isLt))
  have hmask : i.toNat * c.maxNative / 255 &&& c.maxNative = i.toNat * c.maxNative / 255 :=
    Nat.and_two_pow_sub_one_of_lt_two_pow ((Nat.lt_iff_le_pred (Nat.two_pow_pos _)).mpr hle)
  rw [quant, hmask, BitVec.toNat_ofNat]
  exact Nat.mod_eq_of_lt (Nat.lt_succ_of_le (hle.trans h.maxNative_le))

/-- `STEP` intensities share a native value (R8, R81). -/
theorem quant_toNat_eq_div (h : c.WellFormed) (i : Byte) : (quant c i).toNat = i.toNat / c.stepSize := by
  rw [quant_toNat h, ← h.stepSize_mul_maxNative, Nat.mul_div_mul_right _ _ (maxNative_pos h)]

theorem quant_zero (c : Config) : quant c 0 = 0 := by
  simp [quant]

theorem quant_max (h : c.WellFormed) : quant c 255 = BitVec.ofNat 8 c.maxNative := by
  apply BitVec.eq_of_toNat_eq
  rw [quant_toNat h, BitVec.toNat_ofNat, Nat.mod_eq_of_lt (Nat.lt_succ_of_le h.maxNative_le)]
  exact Nat.mul_div_cancel_left _ (by decide)

/-- At 4 bits per pixel the quantiser divides by 17, where a shift divides by 16 (R81 f). -/
theorem quant_eq_shift_iff (hb : c.bpp = 4) {n : Nat} (hn : n < 256) :
    quant c (BitVec.ofNat 8 n) = BitVec.ofNat 8 n >>> 4 ↔ n / 17 = n / 16 := by
  have hq : (n * 15 / 255 &&& 15) = n / 17 := by
    rw [Nat.and_two_pow_sub_one_eq_mod _ 4]
    omega
  rw [← BitVec.toNat_inj, quant, Config.maxNative, hb]
  simp only [BitVec.toNat_ofNat, BitVec.toNat_ushiftRight, Nat.mod_eq_of_lt hn, Nat.shiftRight_eq_div_pow,
    Nat.reducePow, Nat.reduceSub, hq]
  omega

/-! ### The bounds check -/

/-- A signed coordinate lies in `0 ≤ v < n` exactly when its sign bit is 0 and its other bits are below `n`. -/
theorem toInt_bounds_iff (v : Coord) (n : Nat) :
    0 ≤ v.toInt ∧ v.toInt < n ↔ v.msb = false ∧ (v.extractLsb' 0 15).toNat < n := by
  have hv := v.isLt
  simp only [BitVec.msb_eq_decide, BitVec.toInt_eq_toNat_cond, BitVec.extractLsb'_toNat, Nat.shiftRight_zero,
    decide_eq_false_iff_not]
  split <;> omega

/-! ### The address generator -/

/-- The column of field `k` in byte `a` of `storage`. -/
def columnOf (c : Config) (a k : Nat) : Coord := BitVec.ofNat 16 (a % c.rowBytes * c.perByte + k)

/-- The row of byte `a` of `storage`. -/
def rowOf (c : Config) (a : Nat) : Coord := BitVec.ofNat 16 (a / c.rowBytes)

theorem inRange_of_toNat (h : c.WellFormed) {x y : Coord} (hx : x.toNat < c.width) (hy : y.toNat < c.height) :
    inRange c x y = true := by
  obtain ⟨-, -, -, hw, -, hh, -⟩ := h
  rw [inRange_iff, BitVec.toInt_eq_toNat_of_lt (by omega), BitVec.toInt_eq_toNat_of_lt (by omega)]
  omega

theorem column_byte_lt (h : c.WellFormed) {x y : Coord} (hin : inRange c x y = true) :
    x.toNat / c.perByte < c.rowBytes := by
  rw [Nat.div_lt_iff_lt_mul h.perByte_pos, h.rowBytes_mul]
  exact (inRange_toNat hin).1

/-- Dividing an address by `ROW_BYTES` gives its row (R85). -/
theorem addr_div_rowBytes (h : c.WellFormed) {x y : Coord} (hin : inRange c x y = true) :
    addr c x y / c.rowBytes = y.toNat := by
  rw [addr, Nat.mul_comm, Nat.mul_add_div h.rowBytes_pos, Nat.div_eq_of_lt (column_byte_lt h hin), Nat.add_zero]

/-- Different in-range pixels have different places: the address determines the row and the byte of the row, and
the byte and the field determine the column (R85). -/
theorem pixel_eq_of_place_eq (h : c.WellFormed) {x y x' y' : Coord} (hin : inRange c x y = true)
    (hin' : inRange c x' y' = true) (ha : addr c x y = addr c x' y') (hk : fsel c x = fsel c x') :
    x = x' ∧ y = y' := by
  have hrow : y.toNat = y'.toNat := by rw [← addr_div_rowBytes h hin, ha, addr_div_rowBytes h hin']
  have hbyte : x.toNat / c.perByte = x'.toNat / c.perByte := by
    rw [addr, addr, hrow] at ha
    exact Nat.add_left_cancel ha
  have hcol : x.toNat = x'.toNat := by
    rw [← Nat.div_add_mod x.toNat c.perByte, hbyte, show x.toNat % c.perByte = x'.toNat % c.perByte from hk,
      Nat.div_add_mod]
  exact ⟨BitVec.eq_of_toNat_eq hcol, BitVec.eq_of_toNat_eq hrow⟩

/-- Every field of every byte is a pixel's (R85). -/
theorem pixel_of_place (h : c.WellFormed) {a k : Nat} (ha : a < c.fbBytes) (hk : k < c.perByte) :
    inRange c (columnOf c a k) (rowOf c a) = true ∧ addr c (columnOf c a k) (rowOf c a) = a ∧
      fsel c (columnOf c a k) = k := by
  obtain ⟨-, -, -, hw, -, hh, -⟩ := id h
  have hrow : a / c.rowBytes < c.height := Nat.div_lt_of_lt_mul (by rwa [Nat.mul_comm])
  have hcol : a % c.rowBytes * c.perByte + k < c.width := by
    rw [← h.rowBytes_mul]
    calc a % c.rowBytes * c.perByte + k < (a % c.rowBytes + 1) * c.perByte := by
          rw [Nat.succ_mul]
          exact Nat.add_lt_add_left hk _
      _ ≤ c.rowBytes * c.perByte := Nat.mul_le_mul_right _ (Nat.mod_lt _ h.rowBytes_pos)
  have hx : (columnOf c a k).toNat = a % c.rowBytes * c.perByte + k :=
    (BitVec.toNat_ofNat _ _).trans (Nat.mod_eq_of_lt (by omega))
  have hy : (rowOf c a).toNat = a / c.rowBytes :=
    (BitVec.toNat_ofNat _ _).trans (Nat.mod_eq_of_lt (by omega))
  refine ⟨inRange_of_toNat h (hx ▸ hcol) (hy ▸ hrow), ?_, ?_⟩
  · rw [addr, hx, hy, Nat.mul_comm _ c.perByte, Nat.mul_add_div h.perByte_pos, Nat.div_eq_of_lt hk,
      Nat.add_zero, Nat.div_add_mod']
  · rw [fsel, hx, Nat.mul_comm, Nat.mul_add_mod, Nat.mod_eq_of_lt hk]

/-- On the 256 × 64 panel of 4 bits the address and the field are bits of the coordinates (R85). -/
theorem place_bits (hw : c.width = 256) (hh : c.height = 64) (hb : c.bpp = 4) {x y : Coord}
    (hin : inRange c x y = true) :
    addr c x y = (y.extractLsb' 0 6 ++ x.extractLsb' 1 7).toNat ∧ fsel c x = (x.extractLsb' 0 1).toNat := by
  obtain ⟨hx, hy⟩ := inRange_toNat hin
  have hN : c.perByte = 2 := by rw [Config.perByte, hb]
  have hR : c.rowBytes = 128 := by rw [Config.rowBytes, hN, hw]
  rw [addr, fsel, hN, hR, BitVec.toNat_append,
    ← Nat.shiftLeft_add_eq_or_of_lt (x.extractLsb' 1 7).isLt]
  simp only [BitVec.extractLsb'_toNat, Nat.shiftLeft_eq, Nat.shiftRight_eq_div_pow]
  omega

end Sys2Proof.Machine

open Sys2Proof Sys2Proof.Machine

/-- Settles O14: each law follows from the quotient by `STEP`, and the 120 inputs are those whose quotients by 17
and by 16 differ. -/
theorem quantiserLaws : Obligations.QuantiserLaws := by
  refine ⟨fun c h => ⟨fun i => ⟨quant_toNat h i, quant_le h i, quant_toNat_eq_div h i⟩,
    (Nat.mul_comm _ _).trans h.stepSize_mul_maxNative, congrArg BitVec.toNat (quant_zero c), ?max, fun i j hij => ?mono,
    fun q hq => quant_toNat_of_mul_stepSize h hq ?scaled⟩, fun c hb => ⟨?half, ?shift⟩⟩
  case max =>
    rw [quant_max h, BitVec.toNat_ofNat, Nat.mod_eq_of_lt (Nat.lt_succ_of_le h.maxNative_le)]
  case mono =>
    rw [quant_toNat_eq_div h, quant_toNat_eq_div h]
    exact Nat.div_le_div_right hij
  case scaled =>
    have hle : q * c.stepSize ≤ 255 := by
      rw [← h.stepSize_mul_maxNative, Nat.mul_comm c.stepSize]
      exact Nat.mul_le_mul_right _ hq
    exact (BitVec.toNat_ofNat _ _).trans (Nat.mod_eq_of_lt (Nat.lt_succ_of_le hle))
  case half =>
    rw [quant, Config.maxNative, hb]
    decide
  case shift =>
    have hfilter : ((List.range 256).filter fun i =>
        decide (quant c (BitVec.ofNat 8 i) ≠ BitVec.ofNat 8 i >>> 4)) =
        (List.range 256).filter fun i => decide (i / 17 ≠ i / 16) :=
      List.filter_congr fun i hi =>
        decide_eq_decide.mpr (not_congr (quant_eq_shift_iff hb (List.mem_range.mp hi)))
    rw [hfilter]
    exact ⟨_, rfl, rfl⟩

/-- Settles O15: the signed bounds, coordinate by coordinate. -/
theorem boundsCheckIsSigned : Obligations.BoundsCheckIsSigned := by
  refine fun c x y _ => ⟨inRange_iff, ?_⟩
  rw [inRange_iff, ← and_assoc, toInt_bounds_iff, toInt_bounds_iff]

/-- Settles O16: a place gives back its pixel by division, and every place has one. -/
theorem addressGeneratorCoversStorageOnce : Obligations.AddressGeneratorCoversStorageOnce := by
  intro c h
  exact ⟨fun x y hin => ⟨rfl, rfl, addr_lt h hin, fsel_lt h x⟩,
    fun x y x' y' hin hin' => pixel_eq_of_place_eq h hin hin',
    fun a k ha hk => ⟨_, _, pixel_of_place h ha hk⟩, (h.addrWidth_le_iff _).mp le_rfl,
    fun w => (h.addrWidth_le_iff w).mpr, fun ⟨hw, hh, hb⟩ x y hin => place_bits hw hh hb hin⟩

end

section
/-! PROOFS. The fields of a byte (rules R42, R86 to R89): what each field reads as after a merge, and in which bits
it sits. -/

namespace Sys2Proof.Machine

variable {c : Config} {b q r : Byte} {j k n : Nat}

/-! ### Reading fields -/

theorem toNat_maxNative (h : c.WellFormed) : (BitVec.ofNat 8 c.maxNative).toNat = c.maxNative :=
  (BitVec.toNat_ofNat _ _).trans (Nat.mod_eq_of_lt (Nat.lt_succ_of_le h.maxNative_le))

theorem lt_two_pow_bpp_iff (c : Config) (n : Nat) : n < 2 ^ c.bpp ↔ n ≤ c.maxNative :=
  Nat.lt_iff_le_pred (Nat.two_pow_pos _)

theorem extract_insert_same (h : c.WellFormed) (b : Byte) (hq : q.toNat ≤ c.maxNative) (hk : k < c.perByte) :
    extract c (insert c b k q) k = q := by
  have hfit := shiftAmount_add_le h hk
  apply BitVec.eq_of_getLsbD_eq
  intro n _
  rw [extract_getLsbD h]
  by_cases hn : n < c.bpp
  · rw [insert_getLsbD h b q k _ (by omega) hq, if_pos (by omega), Nat.add_sub_cancel_left, decide_eq_true hn,
      Bool.and_true]
  · simp [hn, getLsbD_of_le_maxNative hq (Nat.le_of_not_lt hn)]

theorem extract_insert_other (h : c.WellFormed) (b : Byte) (hq : q.toNat ≤ c.maxNative) (hj : j < c.perByte)
    (hk : k < c.perByte) (hjk : j ≠ k) : extract c (insert c b k q) j = extract c b j := by
  have hfit := shiftAmount_add_le h hj
  have hdisjoint := shiftAmount_disjoint h hj hk hjk
  apply BitVec.eq_of_getLsbD_eq
  intro n _
  rw [extract_getLsbD h, extract_getLsbD h]
  by_cases hn : n < c.bpp
  · rw [insert_getLsbD h b q k _ (by omega) hq, if_neg (by omega)]
  · simp [hn]

/-- What a field reads as after a merge: the value merged in, and every other field as before (R89). -/
theorem extract_insert (h : c.WellFormed) (b : Byte) (hq : q.toNat ≤ c.maxNative) (hj : j < c.perByte)
    (hk : k < c.perByte) : extract c (insert c b k q) j = if j = k then q else extract c b j := by
  split
  next heq => rw [heq, extract_insert_same h b hq hk]
  next hne => exact extract_insert_other h b hq hj hk hne

theorem extract_le (h : c.WellFormed) (b : Byte) (k : Nat) : (extract c b k).toNat ≤ c.maxNative := by
  rw [extract, BitVec.toNat_and, toNat_maxNative h]
  exact Nat.and_le_right

theorem insert_insert_same (h : c.WellFormed) (b : Byte) (hq : q.toNat ≤ c.maxNative) (hr : r.toNat ≤ c.maxNative)
    (hk : k < c.perByte) : insert c (insert c b k q) k r = insert c b k r := by
  refine byte_ext h fun j hj => ?_
  rw [extract_insert h _ hr hj hk, extract_insert h _ hq hj hk, extract_insert h _ hr hj hk]
  split <;> rfl

theorem insert_extract_same (h : c.WellFormed) (b : Byte) (hk : k < c.perByte) :
    insert c b k (extract c b k) = b := by
  refine byte_ext h fun j hj => ?_
  rw [extract_insert h _ (extract_le h b k) hj hk]
  split
  next heq => rw [heq]
  next => rfl

theorem insert_comm (h : c.WellFormed) (b : Byte) (hq : q.toNat ≤ c.maxNative) (hr : r.toNat ≤ c.maxNative)
    (hj : j < c.perByte) (hk : k < c.perByte) (hjk : j ≠ k) :
    insert c (insert c b k q) j r = insert c (insert c b j r) k q := by
  refine byte_ext h fun i hi => ?_
  rw [extract_insert h _ hr hi hj, extract_insert h _ hq hi hk, extract_insert h _ hq hi hk,
    extract_insert h _ hr hi hj]
  by_cases hij : i = j
  · rw [if_pos hij, if_neg (hij.trans_ne hjk), if_pos hij]
  · rw [if_neg hij, if_neg hij]

/-! ### A byte made of placed values -/

theorem extract_zero (c : Config) (k : Nat) : extract c 0 k = 0 := by
  simp [extract]

theorem extract_or (a b : Byte) (k : Nat) : extract c (a ||| b) k = extract c a k ||| extract c b k := by
  rw [extract, BitVec.ushiftRight_or_distrib, BitVec.and_comm, BitVec.and_or_distrib_left,
    BitVec.and_comm, BitVec.and_comm (y := b >>> _)]
  rfl

/-- Placing a value is merging it into the zero byte (R86, R89). -/
theorem extract_place (h : c.WellFormed) (hq : q.toNat ≤ c.maxNative) (hj : j < c.perByte) (hk : k < c.perByte) :
    extract c (place c q k) j = if j = k then q else 0 := by
  have hplace : insert c 0 k q = place c q k := by simp [insert]
  rw [← hplace, extract_insert h 0 hq hj hk, extract_zero]

theorem extract_place_fields (h : c.WellFormed) (hq : q.toNat ≤ c.maxNative) (hj : j < c.perByte)
    (hn : n ≤ c.perByte) :
    extract c ((List.range n).foldl (fun b k => b ||| place c q k) 0) j = if j < n then q else 0 := by
  induction n with
  | zero => exact extract_zero c j
  | succ n ih =>
    rw [List.range_succ, List.foldl_append, List.foldl_cons, List.foldl_nil, extract_or, ih (by omega),
      extract_place h hq hj hn]
    obtain hlt | rfl | hgt := Nat.lt_trichotomy j n
    · simp [hlt, hlt.ne, Nat.lt_succ_of_lt hlt]
    · simp
    · simp [hgt.ne', show ¬ j < n by omega, show ¬ j < n + 1 by omega]

/-- Every field of FILL's byte is the value (R92). -/
theorem extract_pattern (h : c.WellFormed) (hq : q.toNat ≤ c.maxNative) (hk : k < c.perByte) :
    extract c (pattern c q) k = q :=
  (extract_place_fields h hq hk le_rfl).trans (if_pos hk)

/-- A byte whose every field is `q` is FILL's byte of `q` (R92). -/
theorem pattern_eq (h : c.WellFormed) (hq : q.toNat ≤ c.maxNative) (hb : ∀ k < c.perByte, extract c b k = q) :
    pattern c q = b :=
  byte_ext h fun k hk => (extract_pattern h hq hk).trans (hb k hk).symm

theorem extract_ones (h : c.WellFormed) (hk : k < c.perByte) :
    extract c 0xFF k = BitVec.ofNat 8 c.maxNative := by
  have hfit := shiftAmount_add_le h hk
  apply BitVec.eq_of_getLsbD_eq
  intro n _
  rw [extract_getLsbD h, getLsbD_maxNative h, show (0xFF : Byte) = BitVec.allOnes 8 from rfl,
    BitVec.getLsbD_allOnes, ← Bool.decide_and, decide_eq_decide]
  omega

theorem pattern_maxNative (h : c.WellFormed) : pattern c (BitVec.ofNat 8 c.maxNative) = 0xFF :=
  pattern_eq h (toNat_maxNative h).le fun _ => extract_ones h

theorem mask_and_mask (h : c.WellFormed) (hj : j < c.perByte) (hk : k < c.perByte) (hjk : j ≠ k) :
    mask c j &&& mask c k = 0 := by
  apply BitVec.eq_of_getLsbD_eq
  intro n hn
  have hdisjoint := shiftAmount_disjoint h hj hk hjk
  rw [BitVec.getLsbD_and, mask_getLsbD h j n hn, mask_getLsbD h k n hn, ← Bool.decide_and, BitVec.ofNat_eq_ofNat,
    BitVec.getLsbD_zero]
  exact decide_eq_false (by omega)

/-! ### Fields as numbers -/

theorem place_toNat (h : c.WellFormed) (hq : q.toNat ≤ c.maxNative) (hk : k < c.perByte) :
    (place c q k).toNat = q.toNat * 2 ^ shiftAmount c k := by
  have hlt : q.toNat * 2 ^ shiftAmount c k < 2 ^ 8 :=
    calc q.toNat * 2 ^ shiftAmount c k < 2 ^ c.bpp * 2 ^ shiftAmount c k :=
          Nat.mul_lt_mul_of_pos_right ((lt_two_pow_bpp_iff c _).mpr hq) (Nat.two_pow_pos _)
      _ = 2 ^ (shiftAmount c k + c.bpp) := by rw [← Nat.pow_add, Nat.add_comm]
      _ ≤ 2 ^ 8 := Nat.pow_le_pow_right (by decide) (shiftAmount_add_le h hk)
  rw [place, BitVec.toNat_shiftLeft, Nat.shiftLeft_eq, Nat.mod_eq_of_lt hlt]

theorem extract_toNat (h : c.WellFormed) (b : Byte) (k : Nat) :
    (extract c b k).toNat = b.toNat / 2 ^ shiftAmount c k % 2 ^ c.bpp := by
  rw [extract, BitVec.toNat_and, toNat_maxNative h, BitVec.toNat_ushiftRight, Nat.shiftRight_eq_div_pow,
    Config.maxNative, Nat.and_two_pow_sub_one_eq_mod]

/-- Field 0 ends at the byte's top bit (R42). -/
theorem shiftAmount_zero (h : c.WellFormed) : shiftAmount c 0 = 8 - c.bpp := by
  rw [shiftAmount, Nat.sub_zero, Nat.sub_mul, h.perByte_mul_bpp, Nat.one_mul]

/-- Field `N - 1` begins at bit 0 (R42). -/
theorem shiftAmount_last (c : Config) : shiftAmount c (c.perByte - 1) = 0 := by
  rw [shiftAmount, Nat.sub_self, Nat.zero_mul]

/-- Counted from the top, field `k` ends after `k + 1` fields (R42). -/
theorem shiftAmount_eq (h : c.WellFormed) (k : Nat) : shiftAmount c k = 8 - (k + 1) * c.bpp := by
  rw [shiftAmount, Nat.sub_sub, Nat.sub_mul, h.perByte_mul_bpp, Nat.add_comm]

theorem extract_field_zero_toNat (h : c.WellFormed) (b : Byte) : (extract c b 0).toNat = b.toNat / 2 ^ (8 - c.bpp) := by
  have hle : c.bpp ≤ 8 := Nat.le_of_dvd (by decide) ⟨c.perByte, by rw [Nat.mul_comm, h.perByte_mul_bpp]⟩
  have hlt : b.toNat / 2 ^ (8 - c.bpp) < 2 ^ c.bpp := by
    rw [Nat.div_lt_iff_lt_mul (Nat.two_pow_pos _), ← Nat.pow_add, Nat.add_sub_cancel' hle]
    exact b.isLt
  rw [extract_toNat h, shiftAmount_zero h, Nat.mod_eq_of_lt hlt]

end Sys2Proof.Machine

open Sys2Proof Sys2Proof.Machine

/-- Settles O17: masks meet in no bit, the fields of the union read as those of 0xFF, and each law of merge and
extract holds field by field. -/
theorem fieldMergeLaws : Obligations.FieldMergeLaws := by
  refine fun c h => ⟨fun j k hj hk => mask_and_mask h hj hk, pattern_maxNative h, fun _ _ _ => rfl,
    fun b q r j k hq hr hj hk => ⟨extract_insert_same h b hq hk, insert_insert_same h b hq hr hk,
      insert_extract_same h b hk,
      fun hjk => ⟨extract_insert_other h b hq hj hk hjk, insert_comm h b hq hr hj hk hjk⟩⟩⟩

/-- Settles O51: place and extract as multiplication and division by a power of two, and the masks of each
depth. -/
theorem fieldZeroIsMostSignificant : Obligations.FieldZeroIsMostSignificant := by
  refine fun c h => ⟨fun k hk => ⟨fun q hq => place_toNat h ((lt_two_pow_bpp_iff c _).mp hq) hk, ?mask,
    fun b => ⟨extract_toNat h b k, fun j hj => ?bit⟩⟩, fun b => ⟨extract_field_zero_toNat h b, ?last⟩, ?_, ?_, ?_, ?_⟩
  case mask =>
    rw [mask, place_toNat h (toNat_maxNative h).le hk, toNat_maxNative h]
    rfl
  case bit => rw [extract_getLsbD h, shiftAmount_eq h, decide_eq_true hj, Bool.and_true]
  case last =>
    have hlast := extract_toNat h b (c.perByte - 1)
    rwa [shiftAmount_last, Nat.pow_zero, Nat.div_one] at hlast
  all_goals
    intro hb
    simp only [mask, place, shiftAmount, Config.perByte, Config.maxNative, hb]
    decide

end

section
/-! PROOFS. The commands of the Framebuffer Store (rules R90 to R95): what SETPIXEL does to the pixels, FILL as
SETPIXEL everywhere, and what GETPIXEL reads back. -/

namespace Sys2Proof.Machine

/-! ### Writing one byte after another -/

section

variable {m : Memory}

theorem Memory.write_write_same (h : m.wf) (a : Nat) (v w : Byte) : (m.write a v).write a w = m.write a w := by
  refine Memory.ext_lookup (Memory.write_wf a w (Memory.write_wf a v h)) (Memory.write_wf a w h) fun b => ?_
  simp only [Memory.lookup_write]
  split <;> rfl

theorem Memory.write_comm (h : m.wf) {a b : Nat} (hab : a ≠ b) (v w : Byte) :
    (m.write a v).write b w = (m.write b w).write a v := by
  refine Memory.ext_lookup (Memory.write_wf b w (Memory.write_wf a v h))
    (Memory.write_wf a v (Memory.write_wf b w h)) fun n => ?_
  simp only [Memory.lookup_write]
  by_cases ha : a = n
  · rw [if_pos ha, if_pos ha, if_neg (ha ▸ hab.symm)]
  · rw [if_neg ha, if_neg ha]

end

variable {s t u : State} {x y x' y' : Coord} {v : Byte}

/-- The state with the byte at an address replaced by a function of itself. -/
def State.updateByte (s : State) (a : Nat) (f : Byte → Byte) : State :=
  s.withStorage (s.storage.write a (f (s.readByte a)))

theorem State.readByte_updateByte (s : State) (a b : Nat) (f : Byte → Byte) :
    (s.updateByte a f).readByte b = if a = b then f (s.readByte a) else s.readByte b :=
  s.readByte_write a b _

theorem State.updateByte_wf (h : s.storage.wf) (a : Nat) (f : Byte → Byte) : (s.updateByte a f).storage.wf :=
  Memory.write_wf a _ h

theorem State.updateByte_same (h : s.storage.wf) (a : Nat) (f g : Byte → Byte) :
    (s.updateByte a f).updateByte a g = s.updateByte a (g ∘ f) := by
  have hread : (s.updateByte a f).readByte a = f (s.readByte a) := by
    rw [State.readByte_updateByte, if_pos rfl]
  calc (s.updateByte a f).updateByte a g
      = s.withStorage ((s.storage.write a (f (s.readByte a))).write a (g ((s.updateByte a f).readByte a))) := rfl
    _ = s.updateByte a (g ∘ f) := by rw [Memory.write_write_same h, hread]; rfl

theorem State.updateByte_comm (h : s.storage.wf) {a b : Nat} (hab : a ≠ b) (f g : Byte → Byte) :
    (s.updateByte a f).updateByte b g = (s.updateByte b g).updateByte a f := by
  have hb : (s.updateByte a f).readByte b = s.readByte b := by rw [State.readByte_updateByte, if_neg hab]
  have ha : (s.updateByte b g).readByte a = s.readByte a := by rw [State.readByte_updateByte, if_neg hab.symm]
  calc (s.updateByte a f).updateByte b g
      = s.withStorage ((s.storage.write a (f (s.readByte a))).write b (g ((s.updateByte a f).readByte b))) := rfl
    _ = s.withStorage ((s.storage.write b (g (s.readByte b))).write a (f ((s.updateByte b g).readByte a))) := by
      rw [hb, ha, Memory.write_comm h hab]
    _ = (s.updateByte b g).updateByte a f := rfl

/-! ### SETPIXEL -/

/-- SETPIXEL's effect (R90): a merge into one byte, nothing where the pixel is out of range. -/
def State.setPixel (s : State) (x y : Coord) (v : Byte) : State :=
  if inRange s.cfg x y then
    s.updateByte (addr s.cfg x y) fun b => insert s.cfg b (fsel s.cfg x) (quant s.cfg v)
  else s

theorem State.setPixel_inside (h : inRange s.cfg x y = true) (v : Byte) :
    s.setPixel x y v =
      s.updateByte (addr s.cfg x y) fun b => insert s.cfg b (fsel s.cfg x) (quant s.cfg v) := if_pos h

theorem State.setPixel_outside (h : inRange s.cfg x y = false) (v : Byte) : s.setPixel x y v = s :=
  if_neg (by simp [h])

theorem exec_setPixel (h : s.cfg.WellFormed) (x y : Coord) (v : Byte) :
    exec (.setPixel x y v) s = .next (s.setPixel x y v) := by
  obtain ⟨t, ht⟩ := answers_exec h (.setPixel x y v)
  rw [ht]
  cases exec_result ht with
  | pixelSet inside => rw [State.setPixel_inside inside]; rfl
  | pixelOutside outside => rw [State.setPixel_outside outside]

/-- SETPIXEL changes `storage` only (R91 a). -/
theorem State.setPixel_frame (s : State) (x y : Coord) (v : Byte) :
    s.setPixel x y v = s.withStorage (s.setPixel x y v).storage := by
  unfold State.setPixel
  split <;> rfl

@[simp] theorem State.setPixel_cfg (s : State) (x y : Coord) (v : Byte) : (s.setPixel x y v).cfg = s.cfg := by
  rw [State.setPixel_frame]
  rfl

theorem State.setPixel_wf (h : s.storage.wf) (x y : Coord) (v : Byte) : (s.setPixel x y v).storage.wf := by
  unfold State.setPixel
  split
  · exact State.updateByte_wf h _ _
  · exact h

/-- What `storage` lists after SETPIXEL: the pixel's byte, and what it listed. -/
theorem State.lookup_setPixel (s : State) (x y : Coord) (v : Byte) (a : Nat) :
    (s.setPixel x y v).storage.lookup a =
      if inRange s.cfg x y = true ∧ addr s.cfg x y = a then some ((s.setPixel x y v).readByte a)
      else s.storage.lookup a := by
  cases hin : inRange s.cfg x y with
  | false => rw [State.setPixel_outside hin, if_neg (by simp)]
  | true =>
    rw [State.setPixel_inside hin, State.readByte_updateByte]
    simp only [State.updateByte, State.withStorage_storage, Memory.lookup_write, true_and]
    split <;> rfl

/-- The native value of a pixel. -/
def State.pixel (s : State) (x y : Coord) : Byte := extract s.cfg (s.readByte (addr s.cfg x y)) (fsel s.cfg x)

theorem State.pixel_congr (hc : t.cfg = s.cfg) (hm : t.storage = s.storage) (he : t.epoch = s.epoch) (x y : Coord) :
    t.pixel x y = s.pixel x y := by
  rw [State.pixel, State.pixel, hc, State.readByte_congr hm he]

/-- An in-range pixel reads as written, and every other one as before (R91 a). -/
theorem State.pixel_setPixel (h : s.cfg.WellFormed) (hin' : inRange s.cfg x' y' = true) (v : Byte) :
    (s.setPixel x y v).pixel x' y' = if x = x' ∧ y = y' then quant s.cfg v else s.pixel x' y' := by
  rw [State.pixel, State.setPixel_cfg]
  cases hin : inRange s.cfg x y with
  | false =>
    rw [State.setPixel_outside hin, if_neg fun ⟨hx, hy⟩ => by simp [hx, hy, hin'] at hin]
    rfl
  | true =>
    rw [State.setPixel_inside hin, State.readByte_updateByte]
    by_cases ha : addr s.cfg x y = addr s.cfg x' y'
    · rw [if_pos ha, ha, extract_insert h _ (quant_le h v) (fsel_lt h x') (fsel_lt h x)]
      have hsame : fsel s.cfg x' = fsel s.cfg x ↔ x = x' ∧ y = y' :=
        ⟨fun hk => pixel_eq_of_place_eq h hin hin' ha hk.symm, fun ⟨hx, _⟩ => by rw [hx]⟩
      simp only [hsame]
      rfl
    · rw [if_neg ha, if_neg fun ⟨hx, hy⟩ => ha (by rw [hx, hy])]
      rfl

/-- The later of two SETPIXELs on one pixel wins (R91 c). -/
theorem State.setPixel_setPixel_same (h : s.cfg.WellFormed) (hm : s.storage.wf) (x y : Coord) (w v : Byte) :
    (s.setPixel x y w).setPixel x y v = s.setPixel x y v := by
  cases hin : inRange s.cfg x y with
  | false => rw [State.setPixel_outside hin]
  | true =>
    rw [State.setPixel_inside (s := s.setPixel x y w) (by simpa using hin), State.setPixel_cfg,
      State.setPixel_inside hin, State.setPixel_inside hin, State.updateByte_same hm]
    congr 1
    funext b
    exact insert_insert_same h b (quant_le h w) (quant_le h v) (fsel_lt h x)

/-- SETPIXELs on different pixels commute, in one byte or in two (R91 d). -/
theorem State.setPixel_comm (h : s.cfg.WellFormed) (hm : s.storage.wf) (hne : ¬(x = x' ∧ y = y')) (v w : Byte) :
    (s.setPixel x y v).setPixel x' y' w = (s.setPixel x' y' w).setPixel x y v := by
  cases hin : inRange s.cfg x y with
  | false => rw [State.setPixel_outside hin, State.setPixel_outside (s := s.setPixel x' y' w) (by simpa using hin)]
  | true =>
    cases hin' : inRange s.cfg x' y' with
    | false =>
      rw [State.setPixel_outside (x := x') hin',
        State.setPixel_outside (s := s.setPixel x y v) (x := x') (by simpa using hin')]
    | true =>
      rw [State.setPixel_inside (s := s.setPixel x y v) (x := x') (by simpa using hin'),
        State.setPixel_inside (s := s.setPixel x' y' w) (by simpa using hin), State.setPixel_cfg, State.setPixel_cfg,
        State.setPixel_inside hin, State.setPixel_inside hin']
      by_cases ha : addr s.cfg x y = addr s.cfg x' y'
      · have hk : fsel s.cfg x' ≠ fsel s.cfg x := fun hk => hne (pixel_eq_of_place_eq h hin hin' ha hk.symm)
        rw [← ha, State.updateByte_same hm, State.updateByte_same hm]
        congr 1
        funext b
        exact insert_comm h b (quant_le h v) (quant_le h w) (fsel_lt h x') (fsel_lt h x) hk
      · exact State.updateByte_comm hm ha _ _

/-! ### Lists of commands -/

theorem execAll_cons {i : Instr} (h : exec i s = .next t) (rest : List Instr) :
    execAll (i :: rest) s = execAll rest t := by
  rw [execAll, h]

theorem execAll_append {before : List Instr} (h : execAll before s = .next t) (rest : List Instr) :
    execAll (before ++ rest) s = execAll rest t := by
  induction before generalizing s with
  | nil =>
    cases h
    rfl
  | cons i before ih =>
    rw [execAll] at h
    split at h
    next u hu =>
      rw [List.cons_append, execAll_cons hu, ih h]
    · cases h
    · cases h

theorem exec_cfg {i : Instr} (h : exec i s = .next t) : t.cfg = s.cfg := by
  cases exec_result h <;> rfl

/-- Two SETPIXELs in a row. -/
theorem execAll_setPixel_pair (h : s.cfg.WellFormed) (x y x' y' : Coord) (v w : Byte) :
    execAll [.setPixel x y v, .setPixel x' y' w] s = .next ((s.setPixel x y v).setPixel x' y' w) := by
  have h' : (s.setPixel x y v).cfg.WellFormed := by rwa [State.setPixel_cfg]
  rw [execAll_cons (exec_setPixel h x y v), execAll_cons (exec_setPixel h' x' y' w), execAll]

/-! ### FILL -/

/-- FILL's effect (R92). -/
def State.filled (s : State) (v : Byte) : State :=
  s.withStorage (s.storage.fill (pattern s.cfg (quant s.cfg v)) s.cfg.fbBytes)

theorem exec_fill (h : s.cfg.WellFormed) (v : Byte) : exec (.fill v) s = .next (s.filled v) := configured_of h

/-- A factor repeats `q` in every field where the digits of `q` times it, in base `2 ^ BPP`, are all `q`. -/
theorem pattern_eq_mul {c : Config} {q : Byte} (h : c.WellFormed) (hq : q.toNat ≤ c.maxNative) (m : Byte)
    (hdigits : ∀ n < 2 ^ c.bpp, ∀ k < 8 / c.bpp,
      n * m.toNat % 2 ^ 8 / 2 ^ ((8 / c.bpp - 1 - k) * c.bpp) % 2 ^ c.bpp = n) : pattern c q = q * m := by
  refine pattern_eq h hq fun k hk => BitVec.eq_of_toNat_eq ?_
  rw [extract_toNat h, BitVec.toNat_mul]
  exact hdigits _ ((lt_two_pow_bpp_iff c _).mpr hq) k hk

theorem pattern_of_bpp_eight {c : Config} (h : c.WellFormed) (hb : c.bpp = 8) (q : Byte) : pattern c q = q := by
  have hq : q.toNat < 2 ^ 8 := q.isLt
  refine pattern_eq h ((lt_two_pow_bpp_iff c _).mp (by rwa [hb])) fun k hk => BitVec.eq_of_toNat_eq ?_
  have hk0 : k = c.perByte - 1 := by
    rw [Config.perByte, hb] at hk ⊢
    omega
  rw [extract_toNat h, hk0, shiftAmount_last, hb, Nat.pow_zero, Nat.div_one, Nat.mod_eq_of_lt hq]

/-- Where SETPIXELs of intensity `v` to a list of pixels lead: `storage` below `FB_BYTES` alone has changed, and
the listed pixels that are in range have been written with the intensity. -/
structure Repainted (v : Byte) (pixels : List (Coord × Coord)) (s t : State) : Prop where
  frame : t = s.withStorage t.storage
  canonical : t.storage.wf
  outside : ∀ a, s.cfg.fbBytes ≤ a → t.storage.lookup a = s.storage.lookup a
  painted : ∀ p ∈ pixels, inRange s.cfg p.1 p.2 = true →
    (t.storage.lookup (addr s.cfg p.1 p.2)).isSome ∧ t.pixel p.1 p.2 = quant s.cfg v

theorem Repainted.cfg {pixels : List (Coord × Coord)} (h : Repainted v pixels s t) : t.cfg = s.cfg := by
  rw [h.frame]
  rfl

/-- One more SETPIXEL. -/
theorem Repainted.setPixel {pixels : List (Coord × Coord)} (hc : s.cfg.WellFormed) (h : Repainted v pixels s t)
    (p : Coord × Coord) : Repainted v (pixels ++ [p]) s (t.setPixel p.1 p.2 v) where
  frame := by
    rw [State.setPixel_frame, h.frame]
    rfl
  canonical := State.setPixel_wf h.canonical _ _ _
  outside a ha := by
    have hnot : ¬ (inRange t.cfg p.1 p.2 = true ∧ addr t.cfg p.1 p.2 = a) := by
      rw [h.cfg]
      rintro ⟨hin, rfl⟩
      exact absurd (addr_lt hc hin) (Nat.not_lt.mpr ha)
    rw [State.lookup_setPixel, if_neg hnot, h.outside a ha]
  painted p' hp' hin := by
    have hc' : t.cfg.WellFormed := h.cfg ▸ hc
    rw [State.lookup_setPixel, State.pixel_setPixel hc' (h.cfg ▸ hin), h.cfg]
    obtain hp' | hp' := List.mem_append.mp hp'
    · obtain ⟨hlisted, hpixel⟩ := h.painted p' hp' hin
      constructor
      · split
        · rfl
        · exact hlisted
      · rw [hpixel, ite_self]
    · obtain rfl := List.mem_singleton.mp hp'
      exact ⟨by rw [if_pos ⟨hin, rfl⟩]; rfl, if_pos ⟨rfl, rfl⟩⟩

theorem execAll_setPixels (hc : s.cfg.WellFormed) (hm : s.storage.wf) (v : Byte) (pixels : List (Coord × Coord)) :
    ∃ t, execAll (pixels.map fun p => .setPixel p.1 p.2 v) s = .next t ∧ Repainted v pixels s t := by
  induction pixels using List.reverseRecOn with
  | nil => exact ⟨s, rfl, rfl, hm, fun _ _ => rfl, nofun⟩
  | append_singleton pixels p ih =>
    obtain ⟨t, ht, hpainted⟩ := ih
    have hc' : t.cfg.WellFormed := hpainted.cfg ▸ hc
    refine ⟨_, ?_, hpainted.setPixel hc p⟩
    rw [List.map_append, execAll_append ht]
    exact execAll_cons (exec_setPixel hc' ..) []

/-- With every in-range pixel painted each byte has the intensity in all its fields, as FILL leaves it (R93). -/
theorem Repainted.eq_filled {pixels : List (Coord × Coord)} (hc : s.cfg.WellFormed) (hm : s.storage.wf)
    (h : Repainted v pixels s t) (hall : ∀ x y, inRange s.cfg x y = true → (x, y) ∈ pixels) : t = s.filled v := by
  have hbyte : ∀ a < s.cfg.fbBytes, t.storage.lookup a = some (pattern s.cfg (quant s.cfg v)) := by
    intro a ha
    have hfield : ∀ k < s.cfg.perByte,
        (t.storage.lookup a).isSome ∧ extract s.cfg (t.readByte a) k = quant s.cfg v := by
      intro k hk
      obtain ⟨hin, haddr, hfsel⟩ := pixel_of_place hc ha hk
      have hp := h.painted _ (hall _ _ hin) hin
      rwa [State.pixel, h.cfg, haddr, hfsel] at hp
    obtain ⟨b, hb⟩ := Option.isSome_iff_exists.mp (hfield 0 hc.perByte_pos).1
    have hread : t.readByte a = b := by rw [State.readByte, hb, Option.getD_some]
    rw [hb, pattern_eq hc (quant_le hc v) fun k hk => hread ▸ (hfield k hk).2]
  have hstorage : t.storage = s.storage.fill (pattern s.cfg (quant s.cfg v)) s.cfg.fbBytes := by
    refine Memory.ext_lookup h.canonical (Memory.fill_wf _ _ hm) fun a => ?_
    rw [Memory.lookup_fill]
    split
    next ha => exact hbyte a ha
    next ha => exact h.outside a (Nat.le_of_not_lt ha)
  rw [h.frame, hstorage]
  rfl

/-! ### GETPIXEL -/

theorem exec_getPixel_inside (h : s.cfg.WellFormed) (hin : inRange s.cfg x y = true) :
    exec (.getPixel x y) s = .next (s.withResp true (s.pixel x y)) := by
  obtain ⟨t, ht⟩ := answers_exec h (.getPixel x y)
  rw [ht]
  cases exec_result ht with
  | pixelRead => rfl
  | readMissed outside => exact absurd (hin.symm.trans outside) (by decide)

theorem exec_getPixel_outside (h : s.cfg.WellFormed) (hout : inRange s.cfg x y = false) :
    exec (.getPixel x y) s = .next (s.withResp false 0) := by
  obtain ⟨t, ht⟩ := answers_exec h (.getPixel x y)
  rw [ht]
  cases exec_result ht with
  | pixelRead inside => exact absurd (inside.symm.trans hout) (by decide)
  | readMissed => rfl

/-- The commands that leave an in-range pixel as it is: all but INIT, FILL and a SETPIXEL of it (R95). -/
theorem exec_pixel {i : Instr} (hc : s.cfg.WellFormed) (hin : inRange s.cfg x y = true) (h : exec i s = .next t)
    (hni : i ≠ .init) (hnf : ∀ w, i ≠ .fill w) (hns : ∀ w, i ≠ .setPixel x y w) : t.pixel x y = s.pixel x y := by
  cases i with
  | init => exact absurd rfl hni
  | fill w => exact absurd rfl (hnf w)
  | setPixel x' y' w =>
    rw [exec_setPixel hc] at h
    cases h
    rw [State.pixel_setPixel hc hin, if_neg]
    rintro ⟨rfl, rfl⟩
    exact hns w rfl
  | nop | flush | getPixel =>
    exact State.pixel_congr (exec_cfg h) (exec_storage h nofun nofun nofun) (exec_epoch h) x y

theorem execAll_pixel {others : List Instr} (hc : s.cfg.WellFormed) (hin : inRange s.cfg x y = true)
    (h : ∀ j ∈ others, j ≠ .init ∧ (∀ w, j ≠ .fill w) ∧ ∀ w, j ≠ .setPixel x y w) :
    ∃ t, execAll others s = .next t ∧ t.cfg = s.cfg ∧ t.pixel x y = s.pixel x y := by
  induction others generalizing s with
  | nil => exact ⟨s, rfl, rfl, rfl⟩
  | cons j others ih =>
    obtain ⟨u, hu⟩ := answers_exec hc j
    obtain ⟨hni, hnf, hns⟩ := h j List.mem_cons_self
    have hcfg := exec_cfg hu
    obtain ⟨t, ht, htcfg, hpixel⟩ := ih (hcfg ▸ hc) (hcfg ▸ hin) fun j hj => h j (List.mem_cons_of_mem _ hj)
    exact ⟨t, (execAll_cons hu others).trans ht, htcfg.trans hcfg,
      hpixel.trans (exec_pixel hc hin hu hni hnf hns)⟩

end Sys2Proof.Machine

open Sys2Proof Sys2Proof.Machine

/-- Settles O19: in range SETPIXEL merges into the byte at the pixel's address, out of range it answers the state. -/
theorem setPixelResult : Obligations.SetPixelResult := by
  refine fun s x y v hc => ⟨fun hin => ?_, fun hout => exec_setPixel_outside hc hout v⟩
  rw [exec_setPixel hc, State.setPixel_inside hin]
  rfl

/-- Settles O20, by what fields read as after a merge and bytes after a write. -/
theorem setPixelFieldAndFrame : Obligations.SetPixelFieldAndFrame := by
  intro s x y v hc hin
  have hread : ∀ a, (s.setPixel x y v).readByte a = if addr s.cfg x y = a then
      insert s.cfg (s.readByte (addr s.cfg x y)) (fsel s.cfg x) (quant s.cfg v) else s.readByte a := by
    rw [State.setPixel_inside hin]
    exact fun a => s.readByte_updateByte _ a _
  refine ⟨_, exec_setPixel hc x y v, ?_, fun k hk hne => ?_, fun a ha => ?_, s.setPixel_frame x y v⟩
  · rw [hread, if_pos rfl, extract_insert_same hc _ (quant_le hc v) (fsel_lt hc x)]
  · rw [hread, if_pos rfl, extract_insert_other hc _ (quant_le hc v) hk (fsel_lt hc x) hne]
  · rw [hread, if_neg ha.symm]

/-- Settles O21: on one pixel the later SETPIXEL wins, the same one twice among them; on two pixels they commute. -/
theorem setPixelIdempotentCommutative : Obligations.SetPixelIdempotentCommutative := by
  intro s x y x' y' v w hc hm
  refine ⟨_, exec_setPixel hc x y v, ?_, ?_, fun hne => ⟨_, execAll_setPixel_pair hc x y x' y' v w, ?_⟩⟩
  · rw [execAll_setPixel_pair hc, State.setPixel_setPixel_same hc hm]
  · rw [execAll_setPixel_pair hc, State.setPixel_setPixel_same hc hm]
  · rw [execAll_setPixel_pair hc, State.setPixel_comm hc hm fun ⟨hx, hy⟩ => hne (Prod.ext hx hy)]

/-- Settles O22, by the reading rule of the fill and the fields of its byte. -/
theorem fillResult : Obligations.FillResult := by
  intro s v hc
  have hq := quant_le hc v
  refine ⟨_, exec_fill hc v, rfl, fun a ha => ?_, fun a ha => ?_, fun k hk => extract_pattern hc hq hk,
    fun hb => pattern_of_bpp_eight hc hb _, fun hb => pattern_eq_mul hc hq 0x11 (by rw [hb]; decide),
    fun hb => pattern_eq_mul hc hq 0x55 (by rw [hb]; decide),
    fun hb => pattern_eq_mul hc hq 0xFF (by rw [hb]; decide), ?zero, ?max⟩
  · exact (s.readByte_fill _ _ a).trans (if_pos ha)
  · exact (s.readByte_fill _ _ a).trans (if_neg (Nat.not_lt.mpr ha))
  case zero =>
    rintro rfl
    rw [quant_zero]
    exact pattern_eq hc (Nat.zero_le _) fun k _ => extract_zero _ k
  case max =>
    rintro rfl
    rw [quant_max hc, pattern_maxNative hc]

/-- Settles O23: SETPIXELs paint their pixels and nothing else, and a storage with every pixel painted is FILL's. -/
theorem fillIsSetPixelEverywhere : Obligations.FillIsSetPixelEverywhere := by
  intro s v pixels hc hm hall
  obtain ⟨t, ht, hpainted⟩ := execAll_setPixels hc hm v pixels
  exact ⟨_, exec_fill hc v, by rw [ht, hpainted.eq_filled hc hm hall]⟩

/-- Settles O24: GETPIXEL's two results, and an extracted field is a native value. -/
theorem getPixelResult : Obligations.GetPixelResult := by
  intro s x y hc
  refine ⟨fun hin => ⟨_, exec_getPixel_inside hc hin, rfl, rfl, ?_, fun _ => rfl⟩,
    fun hout => ⟨_, exec_getPixel_outside hc hout, rfl, ?_, fun _ => rfl⟩⟩
  · exact (lt_two_pow_bpp_iff _ _).mpr (extract_le hc _ _)
  · rw [State.respPort, State.withResp_resp]
    decide

/-- Settles O25: the pixel reads as written after SETPIXEL, and each of the other commands keeps it. -/
theorem readBackAfterOtherCommands : Obligations.ReadBackAfterOtherCommands := by
  intro s x y v others hc hin hothers
  have hcfg := s.setPixel_cfg x y v
  have hc' : (s.setPixel x y v).cfg.WellFormed := by rwa [hcfg]
  have hin' : inRange (s.setPixel x y v).cfg x y = true := by rwa [hcfg]
  obtain ⟨t, ht, htcfg, hkept⟩ := execAll_pixel (others := others) hc' hin' fun j hj => by
    obtain ⟨hni, hnf, hns, -⟩ := hothers j hj
    exact ⟨hni, hnf, hns⟩
  have hpixel : t.pixel x y = quant s.cfg v := by
    rw [hkept, State.pixel_setPixel hc hin, if_pos ⟨rfl, rfl⟩]
  refine ⟨t.withResp true (quant s.cfg v), ?_, rfl⟩
  rw [List.cons_append, execAll_cons (exec_setPixel hc x y v), execAll_append ht,
    execAll_cons (exec_getPixel_inside (htcfg ▸ hc') (htcfg ▸ hin')), hpixel, execAll]

end

section
/-! PROOFS. INIT and FLUSH in the big-step view (rules R112 to R116, R125): what a flush is on the wire, and how each
command ends with a transport that fails no transfer, and with one that fails a transfer. -/

namespace Sys2Proof.Machine

variable {s u : State} {k : Nat} {rest : List Bool}

/-! ### The flush on the wire -/

/-- The window and write-RAM transfers of a flush, then the bulk (R116). -/
theorem transfersOf_flushEvents (c : Config) (bytes : List Byte) :
    transfersOf (flushEvents c bytes) =
      [⟨false, false, false, c.cmdSetCol⟩, ⟨true, false, false, c.colMin⟩, ⟨true, false, false, c.colMax⟩,
        ⟨false, false, false, c.cmdSetRow⟩, ⟨true, false, false, c.rowMin⟩, ⟨true, false, false, c.rowMax⟩,
        ⟨false, false, false, c.cmdWriteRam⟩] ++ bulkTransfers bytes := by
  simp [flushEvents, Event.transfers]

theorem length_transfersOf_flushEvents (c : Config) (bytes : List Byte) :
    (transfersOf (flushEvents c bytes)).length = 7 + bytes.length := by
  rw [transfersOf_flushEvents, List.length_append, bulkTransfers_length]
  rfl

theorem transfersOf_flushEvents_getElem?_bulk (c : Config) (bytes : List Byte) (a : Nat) :
    (transfersOf (flushEvents c bytes))[7 + a]? =
      (bytes[a]?).map fun b => ⟨true, true, decide (a + 1 = bytes.length), b⟩ := by
  rw [transfersOf_flushEvents, ← bulkTransfers_getElem?, List.getElem?_append_right (Nat.le_add_right 7 a)]
  congr 1
  exact Nat.add_sub_cancel_left 7 a

/-- `tx_dc`, `tx_bulk` and `tx_last` of transfer `n` of a flush (R116). -/
theorem transfersOf_flushEvents_marks {c : Config} {bytes : List Byte} {n : Nat} {t : Transfer}
    (hne : 0 < bytes.length) (h : (transfersOf (flushEvents c bytes))[n]? = some t) :
    (t.dc = false ↔ n = 0 ∨ n = 3 ∨ n = 6) ∧ (t.bulk = true ↔ 7 ≤ n) ∧
      (t.last = true ↔ n = 6 + bytes.length) := by
  obtain hn | hn := Nat.lt_or_ge n 7
  · rw [transfersOf_flushEvents] at h
    have hlast : n ≠ 6 + bytes.length := by omega
    interval_cases n <;> cases h <;> simpa using hlast
  · obtain ⟨a, rfl⟩ := Nat.exists_eq_add_of_le hn
    rw [transfersOf_flushEvents_getElem?_bulk] at h
    obtain ⟨b, -, rfl⟩ := Option.map_eq_some_iff.mp h
    simp only [Bool.true_eq_false, decide_eq_true_eq, false_iff, true_iff]
    omega

/-! ### How the commands end -/

theorem exec_flush_of_ready (hc : s.cfg.WellFormed) (hd : s.status.initDone = true) (hr : s.readyAfter = true) :
    exec .flush s = .next (flushState s) :=
  (configured_of hc).trans ((if_pos hd).trans (congrArg _ (if_pos hr)))

/-- FLUSH before INIT has completed (R115, R155). -/
theorem exec_flush_early (hc : s.cfg.WellFormed) (hd : s.status.initDone = false) :
    exec .flush s = .next (s.raise .noinit) :=
  (configured_of hc).trans (if_neg (by simp [hd]))

/-- A sink that may stop taking bytes: INIT is begun (R186). -/
theorem exec_init_of_unfair (hc : s.cfg.WellFormed) (hr : s.readyAfter = false) :
    exec .init s = .next s.beginInit :=
  (configured_of hc).trans (congrArg _ (if_neg (by simp [hr])))

/-- FLUSH is begun. -/
theorem exec_flush_of_unfair (hc : s.cfg.WellFormed) (hd : s.status.initDone = true) (hr : s.readyAfter = false) :
    exec .flush s = .next s.beginFlush :=
  (configured_of hc).trans ((if_pos hd).trans (congrArg _ (if_neg (by simp [hr]))))

/-- What FLUSH is with a transport that fails no transfer (R115). -/
theorem flushState_infallible_eq (h : s.cfg.fallible = false) :
    flushState s = (s.sent (transfersOf (flushEvents s.cfg s.streamBytes))
      (samplesAfter (7 + s.cfg.fbBytes) s.readyIn) s.failIn).flushDone := by
  rw [flushState_infallible h, length_transfersOf_flushEvents, State.streamBytes_length]

/-- What a flush is with a fallible transport that accepts every transfer (R125). -/
theorem flushState_accepted (h : s.cfg.fallible = true)
    (ha : s.failIn = List.replicate (7 + s.cfg.fbBytes) false ++ rest) :
    flushState s = (s.sent (transfersOf (flushEvents s.cfg s.streamBytes))
      (samplesAfter (7 + s.cfg.fbBytes) s.readyIn) rest).flushDone := by
  have hlen : (transfersOf (flushEvents s.cfg s.streamBytes)).length = 7 + s.cfg.fbBytes := by
    rw [length_transfersOf_flushEvents, State.streamBytes_length]
  rw [flushState_of_transmit (transmit_accepted _ s rest h (hlen.symm ▸ ha)), hlen]
  rfl

/-- What a flush is with a fallible transport that fails transfer `k` (R125). -/
theorem flushState_failed (h : s.cfg.fallible = true) (hk : k < 7 + s.cfg.fbBytes)
    (ha : s.failIn = List.replicate k false ++ true :: rest) :
    flushState s = (s.sent ((transfersOf (flushEvents s.cfg s.streamBytes)).take (k + 1))
      (samplesAfter (k + 1) s.readyIn) rest).failTransfer := by
  refine flushState_of_transmit (transmit_failed _ s k rest h ?_ ha)
  rwa [length_transfersOf_flushEvents, State.streamBytes_length]

/-- INIT about to flush: the sequence sent, `storage` zeroed, the answers `fail` left (R112). -/
def State.sequenceDone (fail : List Bool) (s : State) : State :=
  (zeroFilled s).sent (transfersOf (initEvents s.cfg))
    (samplesAfter (transfersOf (initEvents s.cfg)).length s.readyIn) fail

theorem State.streamBytes_sequenceDone (s : State) (fail : List Bool) :
    (s.sequenceDone fail).streamBytes = List.replicate s.cfg.fbBytes 0 := streamBytes_zeroFilled s

/-- What is sent in INIT's flush is sent after the sequence. -/
theorem State.sequenceDone_sent (s : State) (fail fail' : List Bool) (ts : List Transfer) (n : Nat) :
    (s.sequenceDone fail).sent ts (samplesAfter n (s.sequenceDone fail).readyIn) fail' =
      (zeroFilled s).sent (transfersOf (initEvents s.cfg) ++ ts)
        (samplesAfter ((transfersOf (initEvents s.cfg)).length + n) s.readyIn) fail' := by
  rw [samplesAfter_add]
  exact State.sent_sent ..

/-- What INIT is with a transport that fails no transfer (R112). -/
theorem initState_infallible_eq (h : s.cfg.fallible = false) :
    initState s = ((zeroFilled s).sent
      (transfersOf (initEvents s.cfg ++ flushEvents s.cfg (List.replicate s.cfg.fbBytes 0)))
      (samplesAfter ((transfersOf (initEvents s.cfg)).length + (7 + s.cfg.fbBytes)) s.readyIn)
      s.failIn).flushDone := by
  calc initState s = flushState (s.sequenceDone s.failIn) := initState_infallible h
    _ = _ := by
      rw [flushState_infallible_eq (by exact h), State.sequenceDone_sent, State.streamBytes_sequenceDone,
        transfersOf_append]
      rfl

/-- What INIT is with a fallible transport that accepts the sequence. -/
theorem initState_sequence_accepted (h : s.cfg.fallible = true)
    (ha : s.failIn = List.replicate (transfersOf (initEvents s.cfg)).length false ++ rest) :
    initState s = flushState (s.sequenceDone rest) :=
  initState_of_transmit (transmit_accepted _ s rest h ha)

/-- What INIT is with a fallible transport that accepts every transfer (R125). -/
theorem initState_accepted (h : s.cfg.fallible = true) (ha : s.failIn = List.replicate
      ((transfersOf (initEvents s.cfg)).length + (7 + s.cfg.fbBytes)) false ++ rest) :
    initState s = ((zeroFilled s).sent
      (transfersOf (initEvents s.cfg ++ flushEvents s.cfg (List.replicate s.cfg.fbBytes 0)))
      (samplesAfter ((transfersOf (initEvents s.cfg)).length + (7 + s.cfg.fbBytes)) s.readyIn)
      rest).flushDone := by
  rw [List.replicate_add, List.append_assoc] at ha
  rw [initState_sequence_accepted h ha, flushState_accepted (rest := rest) (by exact h) (by rfl),
    State.sequenceDone_sent, State.streamBytes_sequenceDone, transfersOf_append]
  rfl

/-- What INIT is with a fallible transport that fails transfer `k` of the sequence (R125). -/
theorem initState_sequence_failed (h : s.cfg.fallible = true) (hk : k < (transfersOf (initEvents s.cfg)).length)
    (ha : s.failIn = List.replicate k false ++ true :: rest) :
    initState s = (s.sent ((transfersOf (initEvents s.cfg)).take (k + 1))
      (samplesAfter (k + 1) s.readyIn) rest).failTransfer :=
  initState_of_transmit (transmit_failed _ s k rest h hk ha)

/-- What INIT is with a fallible transport that fails transfer `k` of the flush (R125). -/
theorem initState_flush_failed (h : s.cfg.fallible = true) (hk : k < 7 + s.cfg.fbBytes)
    (ha : s.failIn = List.replicate ((transfersOf (initEvents s.cfg)).length + k) false ++ true :: rest) :
    initState s = ((zeroFilled s).sent
      ((transfersOf (initEvents s.cfg ++ flushEvents s.cfg (List.replicate s.cfg.fbBytes 0))).take
        ((transfersOf (initEvents s.cfg)).length + k + 1))
      (samplesAfter ((transfersOf (initEvents s.cfg)).length + (k + 1)) s.readyIn) rest).failTransfer := by
  rw [List.replicate_add, List.append_assoc] at ha
  rw [initState_sequence_accepted h ha, flushState_failed (k := k) (rest := rest) (by exact h) (by exact hk) (by rfl),
    State.sequenceDone_sent, State.streamBytes_sequenceDone, transfersOf_append, Nat.add_assoc,
    List.take_length_add_append]
  rfl

theorem panelByte_of_stale (h : s.deviceStale = true) (r c : Nat) : s.panelByte r c = none := if_pos h

/-- The bytes after a zero-fill, whatever has been sent since. -/
theorem readByte_of_zeroFilled (hm : u.storage = (zeroFilled s).storage) (he : u.epoch = s.epoch) (a : Nat) :
    u.readByte a = if a < s.cfg.fbBytes then 0 else s.readByte a := by
  rw [State.readByte_congr (s := zeroFilled s) hm he, State.readByte_zeroFilled]

/-! ### The trace -/

theorem bulk_not_mem_initEvents (c : Config) (bs : List Byte) : Event.bulk bs ∉ initEvents c := by
  simp [initEvents]

/-- A command that sends the sequence or nothing, then a flush, adds exactly these events to the trace (R27). -/
theorem eventsOf_append_flush {es : List Event} (hes : ∀ bs, Event.bulk bs ∉ es) (c : Config) {bytes : List Byte}
    (hne : bytes ≠ []) (ts : List Transfer) :
    eventsOf (ts ++ transfersOf (es ++ flushEvents c bytes)) = eventsOf ts ++ (es ++ flushEvents c bytes) := by
  refine eventsReadOffTheWire ts _ (fun bs hbs => ?_) fun bs hbs => ?_
  · obtain hbs | hbs := List.mem_append.mp hbs
    · exact absurd hbs (hes bs)
    · have : bs = bytes := by simpa [flushEvents] using hbs
      rwa [this]
  · cases es with
    | nil => cases hbs
    | cons e es =>
      cases hbs
      exact hes bs List.mem_cons_self

end Sys2Proof.Machine

open Sys2Proof Sys2Proof.Machine

/-- Settles O28, by the seven transfers ahead of the bulk and the transfers of the bulk. -/
theorem flushOnTheWire : Obligations.FlushOnTheWire := by
  intro s hc
  have hlen := s.streamBytes_length
  refine ⟨rfl, hlen, by rw [length_transfersOf_flushEvents, hlen], fun n t ht => ?_, fun a ha => ⟨?_, ?_⟩⟩
  · rw [← hlen]
    exact transfersOf_flushEvents_marks (hlen ▸ hc.fbBytes_pos) ht
  · exact s.streamBytes_getElem? ha
  · rw [transfersOf_flushEvents_getElem?_bulk, s.streamBytes_getElem? ha]
    rfl

/-- Settles O26: the sequence and the flush of zeros are sent one after the other, around the zero-fill. -/
theorem initResult : Obligations.InitResult := by
  intro s hc hf hr
  have hread : ∀ a, (initState s).readByte a = if a < s.cfg.fbBytes then 0 else s.readByte a := by
    rw [initState_infallible_eq hf]
    exact readByte_of_zeroFilled rfl rfl
  refine ⟨initState s, exec_init_of_ready hc hr, ?_, fun a ha => ?_, fun a ha => ?_, fun x y hin => ?_⟩
  · rw [initState_infallible_eq hf]
    rfl
  · rw [hread, if_pos ha]
  · rw [hread, if_neg (Nat.not_lt.mpr ha)]
  · rw [hread, if_pos (addr_lt hc hin), extract_zero]

/-- Settles O27: a flush with a transport that fails no transfer, and FLUSH before INIT. -/
theorem flushResult : Obligations.FlushResult := by
  refine fun s hc => ⟨fun hf hr hd => ?_, exec_flush_early hc⟩
  rw [exec_flush_of_ready hc hd hr, flushState_infallible_eq hf]
  rfl

/-- Settles O30: the events sent are read back off the wire behind those sent before. -/
theorem traceGrowsByTheEventList : Obligations.TraceGrowsByTheEventList := by
  refine fun s hc => ⟨fun hf hr => ⟨_, exec_init_of_ready hc hr, ?_⟩,
    fun hf hr hd => ⟨_, exec_flush_of_ready hc hd hr, ?_⟩, fun hd => ⟨_, exec_flush_early hc hd, rfl⟩⟩
  · rw [initState_infallible_eq hf, List.append_assoc]
    exact eventsOf_append_flush (bulk_not_mem_initEvents s.cfg) s.cfg
      (List.ne_nil_of_length_pos (by simpa using hc.fbBytes_pos)) s.wire
  · rw [flushState_infallible_eq hf]
    exact eventsOf_append_flush (es := []) nofun s.cfg
      (List.ne_nil_of_length_pos (by simpa using hc.fbBytes_pos)) s.wire

/-- Settles O31, by what a flush is whose transfer `k` fails. -/
theorem failedFlushStops : Obligations.FailedFlushStops := by
  intro s k rest hc hf hr hd ha hk
  refine ⟨_, exec_flush_of_ready hc hd hr, ?_⟩
  rw [flushState_failed hf hk ha]
  exact ⟨rfl, rfl, rfl, rfl, rfl, rfl, panelByte_of_stale rfl⟩

/-- Settles O32: a failure in the sequence comes before the zero-fill; one in the flush comes after an accepted
sequence, which has used up its answers. -/
theorem failedInitStops : Obligations.FailedInitStops := by
  refine fun s k rest hc hf hr ha => ⟨fun hk => ⟨_, exec_init_of_ready hc hr, ?_⟩,
    fun hle hk => ⟨_, exec_init_of_ready hc hr, ?_⟩⟩
  · rw [initState_sequence_failed hf hk ha]
    exact ⟨rfl, rfl, rfl, rfl, rfl, panelByte_of_stale rfl⟩
  · obtain ⟨j, rfl⟩ := Nat.exists_eq_add_of_le hle
    rw [initState_flush_failed hf (Nat.lt_of_add_lt_add_left hk) ha]
    exact ⟨fun a ha => (readByte_of_zeroFilled rfl rfl a).trans (if_pos ha), rfl, rfl, rfl, rfl,
      panelByte_of_stale rfl⟩

/-- Settles O33: the sequence, where there is one, and the flush each use up their answers. -/
theorem acceptedTransfersComplete : Obligations.AcceptedTransfersComplete := by
  refine fun s rest hc hf hr => ⟨fun ha => ⟨_, exec_init_of_ready hc hr, ?_⟩,
    fun ha hd => ⟨_, exec_flush_of_ready hc hd hr, ?_⟩⟩
  · rw [initState_accepted hf ha]
    exact ⟨fun a ha => (readByte_of_zeroFilled rfl rfl a).trans (if_pos ha), rfl, rfl, rfl, rfl⟩
  · rw [flushState_accepted hf ha]
    exact ⟨rfl, rfl, rfl, rfl, rfl⟩

end

section
/-! PROOFS. The sequencer's walk byte by byte (rules R121, R122): the rows of the step table, and that the small
steps of a command lead to where its big step leads. -/

namespace Sys2Proof.Machine

variable {s t : State} {b : Transfer} {c : Config} {bytes : List Byte} {p p' : Phase} {n n' : Nat} {w : Word}
  {rest : List Word} {i : Instr}

/-! ### The rows of the step table -/

/-- The rows of R121's table that send a byte, but for the stream's last, of a block with the given configuration and
bytes of `storage`: phase and cursor, the byte, and the next phase and cursor. -/
inductive SendRow (c : Config) (bytes : List Byte) : Phase → Nat → Transfer → Phase → Nat → Prop
  | sequence {n : Nat} {b : Transfer} (hseq : (transfersOf (initEvents c))[n]? = some b) :
      SendRow c bytes .initSeq n b .initSeq (n + 1)
  | colCmd {n : Nat} : SendRow c bytes .fColCmd n ⟨false, false, false, c.cmdSetCol⟩ .fColMin n
  | colMin {n : Nat} : SendRow c bytes .fColMin n ⟨true, false, false, c.colMin⟩ .fColMax n
  | colMax {n : Nat} : SendRow c bytes .fColMax n ⟨true, false, false, c.colMax⟩ .fRowCmd n
  | rowCmd {n : Nat} : SendRow c bytes .fRowCmd n ⟨false, false, false, c.cmdSetRow⟩ .fRowMin n
  | rowMin {n : Nat} : SendRow c bytes .fRowMin n ⟨true, false, false, c.rowMin⟩ .fRowMax n
  | rowMax {n : Nat} : SendRow c bytes .fRowMax n ⟨true, false, false, c.rowMax⟩ .fWram n
  | writeRam {n : Nat} : SendRow c bytes .fWram n ⟨false, false, false, c.cmdWriteRam⟩ .fStream 0
  | stream {n : Nat} {v : Byte} (hv : bytes[n]? = some v) (hmore : n + 1 < c.fbBytes) :
      SendRow c bytes .fStream n ⟨true, true, false, v⟩ .fStream (n + 1)

/-- What the rows read of a state. -/
structure State.At (c : Config) (bytes : List Byte) (p : Phase) (n : Nat) (s : State) : Prop where
  cfg : s.cfg = c
  bytes : s.streamBytes = bytes
  phase : s.phase = p
  cursor : s.cursor = n

/-- The walk at another place of the step table. -/
def State.moveTo (p : Phase) (n : Nat) (s : State) : State := { s with phase := p, cursor := n }

theorem SendRow.txOffer (row : SendRow c bytes p n b p' n') (h : s.At c bytes p n) (hb : s.status.busy = true) :
    s.txOffer = some b := by
  obtain ⟨rfl, rfl, hp, rfl⟩ := h
  rw [State.txOffer, if_pos hb, hp]
  cases row with
  | sequence hseq => exact hseq
  | stream hv hmore =>
    have hcur : s.cursor < s.cfg.fbBytes := Nat.lt_of_succ_lt hmore
    have hlast : s.cursor ≠ s.cfg.fbBytes - 1 := by omega
    rw [s.streamBytes_getElem? hcur] at hv
    cases hv
    simp [hlast, hcur]
  | colCmd | colMin | colMax | rowCmd | rowMin | rowMax | writeRam => rfl

/-- Once the byte has been taken the walk is at the row's next place. -/
theorem SendRow.afterByte (row : SendRow c bytes p n b p' n') (h : s.At c bytes p n) :
    (s.awaited.transfer b).afterByte = (s.awaited.transfer b).moveTo p' n' := by
  obtain ⟨rfl, rfl, hp, rfl⟩ := h
  have hphase : (s.awaited.transfer b).phase = p := hp
  rw [State.afterByte, hphase]
  cases row with
  | stream hv hmore =>
    have hlast : s.cursor ≠ s.cfg.fbBytes - 1 := by omega
    exact if_neg hlast
  | sequence | colCmd | colMin | colMax | rowCmd | rowMin | rowMax | writeRam => rfl

/-- The stream's last byte (R119, R121). -/
theorem afterByte_stream_last (hp : s.phase = .fStream) (hlast : s.cursor + 1 = s.cfg.fbBytes) :
    (s.awaited.transfer b).afterByte = (s.awaited.transfer b).flushDone.complete := by
  have hphase : (s.awaited.transfer b).phase = s.phase := rfl
  have hlast' : s.cursor = s.cfg.fbBytes - 1 := by omega
  rw [State.afterByte, hphase.trans hp]
  exact if_pos hlast'

/-- The state once the sink has taken the byte offered: the walk goes on, or ends where the sink fails it. -/
def State.byteTaken (b : Transfer) (s : State) : State :=
  if s.sinkFails then (s.awaited.transfer b).failTransfer else (s.awaited.transfer b).afterByte

theorem runStep_taken (ho : s.txOffer = some b) (hr : s.readyIn.head?.getD s.readyAfter = true) :
    runStep s = .next (s.byteTaken b) := by
  have hs : { s with readyIn := s.readyIn.tail } = s.awaited := by
    rw [State.awaited]
    match hi : s.readyIn with
    | [] | true :: _ => rfl
    | false :: _ => simp [hi] at hr
  rw [runStep_busy (busy_of_txOffer ho), sequencerStep, ho]
  show (if s.readyIn.head?.getD s.readyAfter then _ else _) = _
  rw [if_pos hr, hs, State.byteTaken]
  split <;> rfl

theorem awaited_of_no_samples (h : s.readyIn = []) : s.awaited = s := by
  cases s
  simp_all [State.awaited, samplesAfterByte]

/-- A byte that a willing sink takes on a transport that fails no transfer (R121). -/
theorem SendRow.step (row : SendRow c bytes p n b p' n') (h : s.At c bytes p n) (hc : s.cfg.WellFormed)
    (hrst : s.rstIn = []) (hb : s.status.busy = true) (hf : s.cfg.fallible = false) (hi : s.readyIn = [])
    (hr : s.readyAfter = true) :
    step s = .next { s with wire := s.wire ++ [b], phase := p', cursor := n' } := by
  have hsink : s.sinkFails = false := by simp [State.sinkFails, hf]
  rw [step_of_no_reset hc hrst, runStep_taken (row.txOffer h hb) (by simp [hi, hr]), State.byteTaken, hsink,
    if_neg Bool.false_ne_true, row.afterByte h, awaited_of_no_samples hi, State.transfer, hf]
  rfl

theorem step_stream_last (hc : s.cfg.WellFormed) (hrst : s.rstIn = []) (hb : s.status.busy = true)
    (hf : s.cfg.fallible = false) (hi : s.readyIn = []) (hr : s.readyAfter = true) (hp : s.phase = .fStream)
    (hlast : s.cursor + 1 = s.cfg.fbBytes) :
    step s = .next { s with
      wire := s.wire ++ [⟨true, true, true, s.readByte s.cursor⟩]
      cursor := 0
      phase := .idle
      status := { s.status with busy := false }
      deviceStale := false } := by
  have hsink : s.sinkFails = false := by simp [State.sinkFails, hf]
  have hlast' : s.cursor = s.cfg.fbBytes - 1 := by omega
  rw [step_of_no_reset hc hrst, runStep_taken (txOffer_streaming hb hp (by omega)) (by simp [hi, hr]),
    State.byteTaken, hsink, if_neg Bool.false_ne_true, afterByte_stream_last hp hlast, awaited_of_no_samples hi,
    State.transfer, hf, decide_eq_true hlast']
  rfl

/-- The end of the sequence (R121): no byte is left to offer. -/
theorem sequencerStep_sequence_end (hp : s.phase = .initSeq)
    (hend : s.cursor = (transfersOf (initEvents s.cfg)).length) : sequencerStep s = .next (s.moveTo .zero 0) := by
  have ho : s.txOffer = none := by simp [State.txOffer, hp, hend]
  rw [sequencerStep, ho, hp]
  rfl

theorem sequencerStep_zero (hp : s.phase = .zero) : sequencerStep s = zeroStep s := by
  have ho : s.txOffer = none := by simp [State.txOffer, hp]
  rw [sequencerStep, ho, hp]

theorem sequencerStep_idle (hp : s.phase = .idle) : sequencerStep s = runLatched s := by
  have ho : s.txOffer = none := by simp [State.txOffer, hp]
  rw [sequencerStep, ho, hp]

theorem step_busy (hc : s.cfg.WellFormed) (hrst : s.rstIn = []) (hb : s.status.busy = true) :
    step s = sequencerStep s := by
  rw [step_of_no_reset hc hrst, runStep_busy hb]

/-- A word accepted in the small-step view begins its command (R121, R144). -/
theorem step_begins_command (hc : s.cfg.WellFormed) (hrst : s.rstIn = []) (hb : s.status.busy = false)
    (hv : s.view = .smallStep) (hp : s.program = w :: rest) (hd : decode w = .legal i) :
    step s = beginCommand i (s.accept w) := by
  rw [step_of_no_reset hc hrst, runStep_issues hb hp, issue, hd, hv]

theorem beginCommand_flush (h : s.status.initDone = true) : beginCommand .flush s = .next s.beginFlush := if_pos h

theorem beginCommand_flush_early (h : s.status.initDone = false) :
    beginCommand .flush s = .next (s.raise .noinit) := if_neg (by simp [h])

end Sys2Proof.Machine

open Sys2Proof Sys2Proof.Machine

/-- Settles O46: the rows that send a byte are those of `SendRow` and the stream's last; the others send nothing. -/
theorem sequencerStepTable : Obligations.SequencerStepTable := by
  refine fun s hc hrst => ⟨fun w rest hb hp hv hprog => ⟨fun hd => ⟨?_, rfl⟩, fun hd hi => ?_, fun hd hi => ?_⟩,
    fun hb => ⟨fun b later ho => ?_, fun hp hend => ?_, fun hp hmore => ?_, fun hp hlast => ?_, fun hf hi hr => ?_⟩⟩
  · exact step_begins_command hc hrst hb hv hprog hd
  · rw [step_begins_command hc hrst hb hv hprog hd, beginCommand_flush (by exact hi)]
    rfl
  · rw [step_begins_command hc hrst hb hv hprog hd, beginCommand_flush_early (by exact hi)]
    simp [State.raise, State.accept, Status.withError, hp]
  · rw [step_of_no_reset (by exact hc) (by exact hrst)]
    exact runStep_stalled (by exact ho) rfl
  · rw [step_busy hc hrst hb, sequencerStep_sequence_end hp hend]
    rfl
  · rw [step_busy hc hrst hb, sequencerStep_zero hp, zeroStep_more hmore]
  · rw [step_busy hc hrst hb, sequencerStep_zero hp, zeroStep_last hlast]
  · have row {b : Transfer} {p p' : Phase} {n' : Nat} (hp : s.phase = p)
        (h : SendRow s.cfg s.streamBytes p s.cursor b p' n') := h.step ⟨rfl, rfl, hp, rfl⟩ hc hrst hb hf hi hr
    refine ⟨fun b hp hseq => ?_, fun hp => row hp .colCmd, fun hp => row hp .colMin, fun hp => row hp .colMax,
      fun hp => row hp .rowCmd, fun hp => row hp .rowMin, fun hp => row hp .rowMax, fun hp => row hp .writeRam,
      fun hp hmore => ?_, step_stream_last hc hrst hb hf hi hr⟩
    · rw [row hp (.sequence hseq), ← hp]
    · rw [row hp (.stream (s.streamBytes_getElem? (Nat.lt_of_succ_lt hmore)) hmore), ← hp]

end

section
/-! PROOFS. The two views of R122 agree: the small steps of a command lead, through busy states, to where its big
step leads. -/

namespace Sys2Proof.Machine

variable {s t e : State} {b : Transfer} {c : Config} {bytes : List Byte} {p p' : Phase} {n n' : Nat}
  {ts : List Transfer} {next : State → State} {w : Word} {rest : List Word} {i : Instr}

/-! ### Runs of busy steps -/

/-- One step of a busy block. -/
def BusyStep (s t : State) : Prop := s.status.busy = true ∧ step s = .next t

/-- The small steps lead from one state to another, each of them taken by a busy block. -/
abbrev Leads : State → State → Prop := Relation.ReflTransGen BusyStep

theorem Leads.run (h : Leads s t) : ∃ n, Sys2Proof.core.run n s = .next t ∧
    ∀ m < n, ∃ u : State, Sys2Proof.core.run m s = .next u ∧ u.status.busy = true := by
  induction h using Relation.ReflTransGen.head_induction_on with
  | refl => exact ⟨0, run_zero t, nofun⟩
  | head hstep _ ih =>
    obtain ⟨hb, hs⟩ := hstep
    obtain ⟨n, hrun, hbusy⟩ := ih
    refine ⟨n + 1, (run_succ_of_next n hs).trans hrun, fun m hm => ?_⟩
    cases m with
    | zero => exact ⟨_, run_zero _, hb⟩
    | succ m =>
      rw [run_succ_of_next m hs]
      exact hbusy m (Nat.lt_of_succ_lt_succ hm)

/-- A command in progress that is not cut by `rst`, with a sink that takes each byte eventually. -/
structure Walking (s : State) : Prop where
  configured : s.cfg.WellFormed
  noReset : s.rstIn = []
  fair : s.readyAfter = true
  busy : s.status.busy = true

theorem Walking.busyStep (h : Walking s) (hs : runStep s = .next t) : BusyStep s t :=
  ⟨h.busy, (step_of_no_reset h.configured h.noReset).trans hs⟩

theorem Walking.leads (h : Walking s) (hs : sequencerStep s = .next t) : Leads s t :=
  .single (h.busyStep ((runStep_busy h.busy).trans hs))

/-- A byte offered is taken after the sink's stalls (R32). -/
theorem Walking.leads_byteTaken (h : Walking s) (ho : s.txOffer = some b) : Leads s (s.byteTaken b) := by
  induction hi : s.readyIn generalizing s with
  | nil => exact .single (h.busyStep (runStep_taken ho (by simp [hi, h.fair])))
  | cons ready later ih =>
    cases ready with
    | true => exact .single (h.busyStep (runStep_taken ho (by simp [hi])))
    | false =>
      have hstall := h.busyStep (runStep_stalled ho (by simp [hi]))
      have hw : Walking { s with readyIn := s.readyIn.tail } := ⟨h.configured, h.noReset, h.fair, h.busy⟩
      have hrest := ih hw ho (by simp [hi])
      have hsame : State.byteTaken b { s with readyIn := s.readyIn.tail } = s.byteTaken b := by
        simp only [State.byteTaken, State.awaited, hi]
        rfl
      rw [hsame] at hrest
      exact .head hstall hrest

/-! ### Sending, and what comes after -/

/-- Transfers sent one after the other, and then the rest of the command where none failed. -/
def sendThen (ts : List Transfer) (next : State → State) (s : State) : State :=
  if (transmit ts s).2 then next (transmit ts s).1 else (transmit ts s).1.failTransfer

theorem sendThen_nil (next : State → State) (s : State) : sendThen [] next s = next s := rfl

theorem sendThen_cons (b : Transfer) (ts : List Transfer) (next : State → State) (s : State) :
    sendThen (b :: ts) next s =
      if s.sinkFails then (s.awaited.transfer b).failTransfer else sendThen ts next (s.awaited.transfer b) := by
  rw [sendThen, sendThen, transmit]
  cases s.sinkFails <;> rfl

theorem flushState_eq_sendThen (s : State) :
    flushState s = sendThen (transfersOf (flushEvents s.cfg s.streamBytes)) State.flushDone s :=
  flushState_of_transmit rfl

theorem initState_eq_sendThen (s : State) :
    initState s = sendThen (transfersOf (initEvents s.cfg)) (fun t => flushState (zeroFilled t)) s :=
  initState_of_transmit rfl

/-- A change of the state that sending does not see comes before or after it alike. -/
theorem transmit_map {f : State → State} (hfail : ∀ s, (f s).sinkFails = s.sinkFails)
    (hsend : ∀ s b, (f s).awaited.transfer b = f (s.awaited.transfer b)) (ts : List Transfer) (s : State) :
    transmit ts (f s) = (f (transmit ts s).1, (transmit ts s).2) := by
  induction ts generalizing s with
  | nil => rfl
  | cons b ts ih =>
    rw [transmit, transmit, hfail, hsend, ih]
    split <;> rfl

/-! ### The walk's place is not seen by what is sent -/

/-- What comes after the transfers leads to the same state from any place of the walk. -/
def PlaceBlind (next : State → State) : Prop := ∀ p n s, next (s.moveTo p n) = next s

theorem sendThen_placeBlind (hnext : PlaceBlind next) (ts : List Transfer) : PlaceBlind (sendThen ts next) := by
  intro p n s
  rw [sendThen, transmit_map (f := State.moveTo p n) (fun _ => rfl) (fun _ _ => rfl), sendThen]
  dsimp only
  rw [hnext]
  rfl

theorem flushDone_placeBlind : PlaceBlind State.flushDone := fun _ _ _ => rfl

theorem flushState_placeBlind : PlaceBlind flushState := by
  intro p n s
  rw [flushState_eq_sendThen, flushState_eq_sendThen]
  exact sendThen_placeBlind flushDone_placeBlind _ p n s

theorem flush_zeroFilled_placeBlind : PlaceBlind fun s => flushState (zeroFilled s) :=
  fun p n s => flushState_placeBlind p n (zeroFilled s)

theorem initState_placeBlind : PlaceBlind initState := by
  intro p n s
  rw [initState_eq_sendThen, initState_eq_sendThen]
  exact sendThen_placeBlind flush_zeroFilled_placeBlind _ p n s

/-! ### The walk -/

/-- From a place of the step table a walk sends the transfers `ts` and then does what comes after, or ends at a
transfer that fails. -/
def WalkSends (c : Config) (bytes : List Byte) (p : Phase) (n : Nat) (ts : List Transfer) (next : State → State) :
    Prop :=
  ∀ s : State, Walking s → s.At c bytes p n → Leads s (sendThen ts next s).complete

/-- A row of the step table sends its byte first. -/
theorem WalkSends.row (hrest : WalkSends c bytes p' n' ts next) (row : SendRow c bytes p n b p' n')
    (hnext : PlaceBlind next) : WalkSends c bytes p n (b :: ts) next := by
  intro s h hat
  refine (h.leads_byteTaken (row.txOffer hat h.busy)).trans ?_
  rw [sendThen_cons, State.byteTaken, row.afterByte hat]
  split
  next => exact .refl
  next =>
    have hbytes : ((s.awaited.transfer b).moveTo p' n').streamBytes = bytes :=
      (State.streamBytes_congr (s := s) rfl rfl rfl).trans hat.bytes
    rw [← sendThen_placeBlind hnext ts p' n']
    exact hrest _ ⟨h.configured, h.noReset, h.fair, h.busy⟩ ⟨hat.cfg, hbytes, rfl, rfl⟩

theorem drop_bulkTransfers (h : n < bytes.length) :
    (bulkTransfers bytes).drop n =
      ⟨true, true, decide (n + 1 = bytes.length), bytes[n]⟩ :: (bulkTransfers bytes).drop (n + 1) := by
  have hget := bulkTransfers_getElem? bytes n
  rw [List.getElem?_eq_getElem h] at hget
  obtain ⟨hlt, hget⟩ := List.getElem?_eq_some_iff.mp hget
  rw [List.drop_eq_getElem_cons hlt, hget]

/-- The stream's last byte ends the walk (R121). -/
theorem walkSends_stream_last {v : Byte} (hv : bytes[n]? = some v) (hlast : n + 1 = c.fbBytes) :
    WalkSends c bytes .fStream n [⟨true, true, true, v⟩] State.flushDone := by
  rintro s h ⟨rfl, rfl, hp, rfl⟩
  have hcur : s.cursor < s.cfg.fbBytes := by omega
  have hmark : s.cursor = s.cfg.fbBytes - 1 := by omega
  have hoffer := txOffer_streaming h.busy hp hcur
  rw [s.streamBytes_getElem? hcur] at hv
  cases hv
  rw [decide_eq_true hmark] at hoffer
  refine (h.leads_byteTaken hoffer).trans ?_
  rw [sendThen_cons, State.byteTaken, afterByte_stream_last hp hlast]
  split <;> exact .refl

/-- The walk in `F_STREAM` sends the rest of the stream (R119, R121). -/
theorem walkSends_stream (hlen : bytes.length = c.fbBytes) (hn : n + 1 + n' = c.fbBytes) :
    WalkSends c bytes .fStream n ((bulkTransfers bytes).drop n) State.flushDone := by
  induction n' generalizing n with
  | zero =>
    have hcur : n < bytes.length := by omega
    have hlast : n + 1 = bytes.length := by omega
    have hend : (bulkTransfers bytes).drop (n + 1) = [] := by simp [hlast]
    rw [drop_bulkTransfers hcur, hend, decide_eq_true hlast]
    exact walkSends_stream_last (List.getElem?_eq_getElem hcur) hn
  | succ k ih =>
    have hcur : n < bytes.length := by omega
    have hmore : n + 1 < c.fbBytes := by omega
    rw [drop_bulkTransfers hcur, decide_eq_false (hlen ▸ hmore.ne)]
    exact (ih (by omega)).row (.stream (List.getElem?_eq_getElem hcur) hmore) flushDone_placeBlind

/-- The walk from `F_COLCMD` on sends a flush (R116, R121). -/
theorem walkSends_flush (hlen : bytes.length = c.fbBytes) (hpos : 0 < c.fbBytes) (n : Nat) :
    WalkSends c bytes .fColCmd n (transfersOf (flushEvents c bytes)) State.flushDone := by
  obtain ⟨k, hk⟩ := Nat.exists_eq_add_of_lt hpos
  have hblind := flushDone_placeBlind
  have hstream : WalkSends c bytes .fStream 0 (bulkTransfers bytes) State.flushDone :=
    walkSends_stream (n := 0) (n' := k) hlen (by omega)
  rw [transfersOf_flushEvents]
  exact hstream.row .writeRam hblind |>.row .rowMax hblind |>.row .rowMin hblind |>.row .rowCmd hblind
    |>.row .colMax hblind |>.row .colMin hblind |>.row .colCmd hblind

theorem Walking.leads_flush (h : Walking s) (hp : s.phase = .fColCmd) : Leads s (flushState s).complete := by
  rw [flushState_eq_sendThen]
  exact walkSends_flush s.streamBytes_length h.configured.fbBytes_pos s.cursor s h ⟨rfl, rfl, hp, rfl⟩

/-- The walk in the middle of the zero-fill, the bytes below `a` written. -/
def State.zeroing (a : Nat) (s : State) : State := { s with storage := s.storage.fill 0 a, phase := .zero, cursor := a }

/-- The walk in `ZERO` is the rest of the zero-fill (R112, R121). -/
theorem Walking.leads_zeroFilled {a : Nat} (h : Walking s) (hn : a + 1 + n = s.cfg.fbBytes) :
    Leads (s.zeroing a) ((zeroFilled s).moveTo .fColCmd 0) := by
  have hw : Walking (s.zeroing a) := ⟨h.configured, h.noReset, h.fair, h.busy⟩
  have hstep : sequencerStep (s.zeroing a) = zeroStep (s.zeroing a) := sequencerStep_zero rfl
  induction n generalizing a with
  | zero =>
    have hlast : (s.zeroing a).cursor + 1 = (s.zeroing a).cfg.fbBytes := hn
    have heq : (zeroFilled s).moveTo .fColCmd 0 = { s.zeroing a with
        storage := (s.zeroing a).storage.write a 0
        status := { s.status with initDone := true }
        cursor := 0
        phase := .fColCmd } := by
      rw [zeroFilled, ← hn]
      rfl
    rw [heq]
    exact hw.leads (hstep.trans (zeroStep_last hlast))
  | succ n ih =>
    have hmore : (s.zeroing a).cursor + 1 < (s.zeroing a).cfg.fbBytes := by
      show a + 1 < s.cfg.fbBytes
      omega
    have hnext : Leads (s.zeroing a) (s.zeroing (a + 1)) := hw.leads (hstep.trans (zeroStep_more hmore))
    exact hnext.trans (ih (by omega) ⟨h.configured, h.noReset, h.fair, h.busy⟩ (sequencerStep_zero rfl))

/-- The end of the sequence, from which the walk zero-fills and flushes (R112, R121). -/
theorem walkSends_sequence_end :
    WalkSends c bytes .initSeq (transfersOf (initEvents c)).length [] fun s => flushState (zeroFilled s) := by
  rintro s h ⟨rfl, rfl, hp, hend⟩
  obtain ⟨k, hk⟩ := Nat.exists_eq_add_of_lt h.configured.fbBytes_pos
  have hzero : Leads s (s.zeroing 0) := h.leads (sequencerStep_sequence_end hp hend)
  have hfill := h.leads_zeroFilled (a := 0) (n := k) (by omega)
  have hflush := Walking.leads_flush (s := (zeroFilled s).moveTo .fColCmd 0)
    ⟨h.configured, h.noReset, h.fair, h.busy⟩ rfl
  rw [flushState_placeBlind] at hflush
  exact (hzero.trans hfill).trans hflush

/-- The walk in `INITSEQ` sends the rest of the sequence first. -/
theorem walkSends_sequence (hn : n + n' = (transfersOf (initEvents c)).length) :
    WalkSends c bytes .initSeq n ((transfersOf (initEvents c)).drop n) fun s => flushState (zeroFilled s) := by
  induction n' generalizing n with
  | zero =>
    obtain rfl : n = (transfersOf (initEvents c)).length := hn
    rw [List.drop_length]
    exact walkSends_sequence_end
  | succ k ih =>
    have hlt : n < (transfersOf (initEvents c)).length := by omega
    rw [List.drop_eq_getElem_cons hlt]
    exact (ih (by omega)).row (.sequence (List.getElem?_eq_getElem hlt)) flush_zeroFilled_placeBlind

theorem beginInit_of_busy (h : s.status.busy = true) : s.beginInit = s.moveTo .initSeq 0 := by
  rw [State.beginInit, ← h]
  rfl

theorem beginFlush_of_busy (h : s.status.busy = true) : s.beginFlush = s.moveTo .fColCmd s.cursor := by
  rw [State.beginFlush, ← h]
  rfl

theorem Walking.leads_initState (h : Walking s) : Leads s.beginInit (initState s).complete := by
  have hw : Walking (s.moveTo .initSeq 0) := ⟨h.configured, h.noReset, h.fair, h.busy⟩
  have hwalk := walkSends_sequence (Nat.zero_add _) _ hw ⟨rfl, rfl, rfl, rfl⟩
  rw [← initState_placeBlind .initSeq 0, beginInit_of_busy h.busy, initState_eq_sendThen]
  exact hwalk

theorem Walking.leads_flushState (h : Walking s) : Leads s.beginFlush (flushState s).complete := by
  have hw : Walking (s.moveTo .fColCmd s.cursor) := ⟨h.configured, h.noReset, h.fair, h.busy⟩
  have hwalk := hw.leads_flush rfl
  rwa [flushState_placeBlind, ← beginFlush_of_busy h.busy] at hwalk

/-! ### The two views -/

/-- The state with steps in a given view. -/
def State.inView (v : View) (s : State) : State := { s with view := v }

theorem sendThen_inView {v : View} (hnext : ∀ t : State, next (t.inView v) = (next t).inView v) (ts : List Transfer)
    (s : State) : sendThen ts next (s.inView v) = (sendThen ts next s).inView v := by
  rw [sendThen, transmit_map (f := State.inView v) (fun _ => rfl) (fun _ _ => rfl), sendThen]
  dsimp only
  rw [hnext]
  split <;> rfl

theorem flushState_inView (v : View) (s : State) : flushState (s.inView v) = (flushState s).inView v := by
  rw [flushState_eq_sendThen, flushState_eq_sendThen]
  exact sendThen_inView (next := State.flushDone) (fun _ => rfl) ..

theorem initState_inView (v : View) (s : State) : initState (s.inView v) = (initState s).inView v := by
  rw [initState_eq_sendThen, initState_eq_sendThen]
  exact sendThen_inView (fun t => flushState_inView v (zeroFilled t)) ..

/-- A command does not see the view. -/
theorem exec_inView (hc : s.cfg.WellFormed) (h : exec i s = .next t) (v : View) :
    exec i (s.inView v) = .next (t.inView v) := by
  have hc' : (s.inView v).cfg.WellFormed := hc
  cases i with
  | init =>
    cases hr : s.readyAfter with
    | true =>
      cases (exec_init_of_ready hc hr).symm.trans h
      rw [exec_init_of_ready hc' hr, initState_inView]
    | false =>
      cases (exec_init_of_unfair hc hr).symm.trans h
      exact exec_init_of_unfair hc' hr
  | flush =>
    cases hd : s.status.initDone with
    | false =>
      cases (exec_flush_early hc hd).symm.trans h
      exact exec_flush_early hc' hd
    | true =>
      cases hr : s.readyAfter with
      | true =>
        cases (exec_flush_of_ready hc hd hr).symm.trans h
        rw [exec_flush_of_ready hc' hd hr, flushState_inView]
      | false =>
        cases (exec_flush_of_unfair hc hd hr).symm.trans h
        exact exec_flush_of_unfair hc' hd hr
  | nop | fill =>
    cases exec_result h
    exact configured_of hc
  | setPixel x y q =>
    obtain ⟨hin, hout⟩ := setPixelResult (s.inView v) x y q hc
    cases exec_result h with
    | pixelSet inside => exact hin inside
    | pixelOutside outside => exact hout outside
  | getPixel x y =>
    cases exec_result h with
    | pixelRead inside => exact exec_getPixel_inside hc' inside
    | readMissed outside => exact exec_getPixel_outside hc' outside

/-- The sequencer is `IDLE` after a command, but for an INIT or FLUSH that a sink may never let end (R186). -/
theorem exec_phase_idle (h : exec i s = .next t) (hp : s.phase = .idle)
    (hr : i = .init ∨ i = .flush → s.readyAfter = true) : t.phase = .idle := by
  cases exec_result h with
  | nop | pixelSet | pixelOutside | filled | pixelRead | readMissed => exact hp
  | flushRefused | flushed | flushFailed | initialised | sequenceFailed | initFlushFailed => rfl
  | flushBegun _ unfair => exact absurd ((hr (.inr rfl)).symm.trans unfair) (by decide)
  | initBegun unfair => exact absurd ((hr (.inl rfl)).symm.trans unfair) (by decide)

/-- The state in which a big step leaves the block, once the command has answered `s` (R144, R186). -/
def State.settled (s : State) : State := if s.phase = .idle then s.complete else s

theorem State.settled_of_idle (h : s.phase = .idle) : s.settled = s.complete := if_pos h

theorem State.settled_inView (v : View) (s : State) : (s.inView v).settled = s.settled.inView v :=
  (apply_ite (State.inView v) (s.phase = .idle) s.complete s).symm

theorem finish_settled (s : State) : finish (.next s) = .next s.settled := rfl

/-- INIT's small steps (R122). -/
theorem exec_init_leads (hc : s.cfg.WellFormed) (hrst : s.rstIn = []) (hb : s.status.busy = true) (hp : s.phase = .idle)
    (he : exec .init s = .next e) : Leads s.beginInit e.settled := by
  cases hr : s.readyAfter with
  | true =>
    rw [State.settled_of_idle (exec_phase_idle he hp fun _ => hr)]
    cases (exec_init_of_ready hc hr).symm.trans he
    exact Walking.leads_initState ⟨hc, hrst, hr, hb⟩
  | false =>
    cases (exec_init_of_unfair hc hr).symm.trans he
    exact .refl

/-- FLUSH's small steps (R122). -/
theorem exec_flush_leads (hc : s.cfg.WellFormed) (hrst : s.rstIn = []) (hb : s.status.busy = true)
    (hp : s.phase = .idle) (hd : s.status.initDone = true) (he : exec .flush s = .next e) : Leads s.beginFlush e.settled := by
  cases hr : s.readyAfter with
  | true =>
    rw [State.settled_of_idle (exec_phase_idle he hp fun _ => hr)]
    cases (exec_flush_of_ready hc hd hr).symm.trans he
    exact Walking.leads_flushState ⟨hc, hrst, hr, hb⟩
  | false =>
    cases (exec_flush_of_unfair hc hd hr).symm.trans he
    exact .refl

/-- A command without a walk is executed from the latches by one step (log 17). -/
theorem runLatched_leads (hc : s.cfg.WellFormed) (hrst : s.rstIn = []) (hb : s.status.busy = true)
    (hp : s.phase = .idle) (hrun : runLatched s = finish (exec i s)) (he : exec i s = .next e) : Leads s e.settled := by
  refine .single ⟨hb, ?_⟩
  rw [step_busy hc hrst hb, sequencerStep_idle hp, hrun, he, finish_settled]

/-- From the acceptance of a command its small steps lead to where its big step leads (R122). -/
theorem beginCommand_leads (hc : s.cfg.WellFormed) (hrst : s.rstIn = []) (hb : s.status.busy = true)
    (hp : s.phase = .idle) (hl : s.latched = .legal i) (he : exec i s = .next e) :
    ∃ u, beginCommand i s = .next u ∧ Leads u e.settled := by
  cases i with
  | init => exact ⟨_, rfl, exec_init_leads hc hrst hb hp he⟩
  | flush =>
    cases hd : s.status.initDone with
    | true => exact ⟨_, beginCommand_flush hd, exec_flush_leads hc hrst hb hp hd he⟩
    | false =>
      cases (exec_flush_early hc hd).symm.trans he
      exact ⟨_, beginCommand_flush_early hd, .refl⟩
  | nop | setPixel x y q | fill q | getPixel x y =>
    exact ⟨_, rfl, runLatched_leads hc hrst hb hp (by rw [runLatched, hl]) he⟩

theorem latched_accept (h : decode w = .legal i) (s : State) : (s.accept w).latched = .legal i := by
  unfold decode at h
  split at h
  · exact h
  · cases h

theorem issue_illegal {why : Illegal} (hc : s.cfg.WellFormed) (h : decode w = .illegal why) :
    issue w s = .next ((s.accept w).raise .illegal) := by
  rw [issue, h]
  exact configured_of hc

theorem State.inView_of_view {v : View} (h : s.view = v) : s.inView v = s := by
  subst h
  rfl

/-- A word presented to an idle block: the big step, the small step of its acceptance, and the small steps from there
to where the big step leads (R122). -/
theorem views_agree (hc : s.cfg.WellFormed) (hrst : s.rstIn = []) (hb : s.status.busy = false) (hp : s.phase = .idle)
    (hprog : s.program = w :: rest) :
    ∃ t u, step (s.inView .bigStep) = .next t ∧ step (s.inView .smallStep) = .next u ∧
      Leads u (t.inView .smallStep) ∧ (s.readyAfter = true → t.status.busy = false) := by
  have hissue (v : View) : step (s.inView v) = issue w (s.inView v) := by
    rw [step_of_no_reset (by exact hc) (by exact hrst), runStep_issues (by exact hb) (by exact hprog)]
  cases hd : decode w with
  | illegal why =>
    exact ⟨_, _, (hissue .bigStep).trans (issue_illegal (by exact hc) hd),
      (hissue .smallStep).trans (issue_illegal (by exact hc) hd), .refl, fun _ => rfl⟩
  | legal i =>
    obtain ⟨e, he⟩ := answers_exec (s := s.accept w) hc i
    have hview (v : View) : exec i ((s.accept w).inView v) = .next (e.inView v) := exec_inView (by exact hc) he v
    have hbig : step (s.inView .bigStep) = .next (e.inView .bigStep).settled := by
      rw [hissue, issue_bigStep rfl hd, ← finish_settled, ← hview]
      rfl
    obtain ⟨u, hu, hleads⟩ := beginCommand_leads (s := (s.accept w).inView .smallStep) hc hrst rfl hp
      (latched_accept hd s) (hview .smallStep)
    have hsmall : step (s.inView .smallStep) = .next u := by
      rw [step_begins_command (by exact hc) (by exact hrst) (by exact hb) rfl (by exact hprog) hd]
      exact hu
    refine ⟨_, u, hbig, hsmall, ?_, fun hr => ?_⟩
    · rwa [← State.settled_inView]
    · have hidle : (e.inView .bigStep).phase = .idle := exec_phase_idle (hview .bigStep) hp fun _ => hr
      rw [State.settled_of_idle hidle]
      rfl

end Sys2Proof.Machine

open Sys2Proof Sys2Proof.Machine

/-- Settles O47: the acceptance of the word, and then a run of busy steps to where the big step leads. -/
theorem smallStepsAgreeWithBigStep : Obligations.SmallStepsAgreeWithBigStep := by
  intro s w rest hc hb hp hrst hv hprog
  obtain ⟨t, u, hbig, hsmall, hleads, hdone⟩ := views_agree hc hrst hb hp hprog
  obtain ⟨n, hrun, hbusy⟩ := hleads.run
  rw [State.inView_of_view hv] at hsmall
  refine ⟨n + 1, t, hbig, (run_succ_of_next n hsmall).trans hrun, hdone, fun m hpos hm => ?_⟩
  obtain ⟨m, rfl⟩ := Nat.exists_eq_succ_of_ne_zero hpos.ne'
  rw [Nat.succ_eq_add_one, run_succ_of_next m hsmall]
  exact hbusy m (Nat.lt_of_succ_lt_succ hm)

end

section
/-! PROOFS. Acceptance of a word (rules R30, R141, R144): what a step does to the words presented and to the latches,
and whether the block is busy after it; NOP (rule R140). -/

namespace Sys2Proof.Machine

variable {s t : State} {w : Word} {rest : List Word} {i : Instr}

/-! ### A busy block -/

/-- The command side of the block: the words presented, and the latches (R22, R30). -/
def State.commandSide (s : State) : List Word × BitVec 4 × Byte × Coord × Coord :=
  (s.program, s.opCode, s.opI, s.opY, s.opX)

theorem State.commandSide_eq_iff {ws : List Word} {op : BitVec 4} {v : Byte} {y x : Coord} :
    s.commandSide = (ws, op, v, y, x) ↔
      s.program = ws ∧ s.opCode = op ∧ s.opI = v ∧ s.opY = y ∧ s.opX = x := by
  simp only [State.commandSide, Prod.mk.injEq]

theorem exec_commandSide (h : exec i s = .next t) : t.commandSide = s.commandSide := by
  cases exec_result h <;> rfl

theorem finish_exec_commandSide (h : finish (exec i s) = .next t) : t.commandSide = s.commandSide := by
  obtain ⟨u, hu, rfl⟩ := finish_next h
  rw [← exec_commandSide hu]
  split <;> rfl

theorem beginCommand_commandSide (h : beginCommand i s = .next t) : t.commandSide = s.commandSide := by
  cases i with
  | flush =>
    rw [beginCommand] at h
    split at h <;> cases h <;> rfl
  | nop | init | setPixel x y v | fill v | getPixel x y =>
    cases h
    rfl

theorem illegalWord_commandSide (h : illegalWord s = .next t) : t.commandSide = s.commandSide := by
  obtain ⟨-, h⟩ := configured_next h
  cases h
  rfl

theorem afterByte_commandSide (s : State) : s.afterByte.commandSide = s.commandSide := by
  unfold State.afterByte
  cases s.phase with
  | fStream => exact (apply_ite State.commandSide ..).trans (ite_self _)
  | idle | initSeq | zero | fColCmd | fColMin | fColMax | fRowCmd | fRowMin | fRowMax | fWram => rfl

theorem offerByte_commandSide {b : Transfer} (h : offerByte b s = .next t) : t.commandSide = s.commandSide := by
  obtain ⟨-, rfl⟩ | ⟨-, -, rfl⟩ | ⟨-, -, rfl⟩ := offerByte_next h
  · rfl
  · rfl
  · exact afterByte_commandSide _

theorem zeroStep_commandSide (h : zeroStep s = .next t) : t.commandSide = s.commandSide := by
  unfold zeroStep at h
  split at h
  next u hw =>
    obtain ⟨-, rfl⟩ := memWrite_next hw
    split at h <;> cases h <;> rfl
  all_goals cases h

theorem runLatched_commandSide (h : runLatched s = .next t) : t.commandSide = s.commandSide := by
  unfold runLatched at h
  split at h
  next => exact illegalWord_commandSide h
  next => exact beginCommand_commandSide h
  next => exact beginCommand_commandSide h
  all_goals exact finish_exec_commandSide h

/-- A busy block takes no word and keeps its latches (R22, R144). -/
theorem sequencerStep_commandSide (h : sequencerStep s = .next t) : t.commandSide = s.commandSide := by
  unfold sequencerStep at h
  split at h
  next => exact offerByte_commandSide h
  next =>
    cases hp : s.phase <;> rw [hp] at h
    case idle => exact runLatched_commandSide h
    case zero => exact zeroStep_commandSide h
    case fStream => cases h
    all_goals
      cases h
      rfl

theorem step_busy_commandSide (hc : s.cfg.WellFormed) (hr : s.rstAsserted = false) (hb : s.status.busy = true)
    (h : step s = .next t) : t.commandSide = s.commandSide := by
  rw [step_of_rstLow hc hr, runStep_busy (s := s.popRst) hb] at h
  exact sequencerStep_commandSide (s := s.popRst) h

/-! ### An idle block with a word presented -/

theorem step_issues (hc : s.cfg.WellFormed) (hr : s.rstAsserted = false) (hb : s.status.busy = false)
    (hp : s.program = w :: rest) : step s = issue w s.popRst := by
  rw [step_of_rstLow hc hr, runStep_issues (s := s.popRst) hb hp]

theorem issue_smallStep (hv : s.view = .smallStep) (hd : decode w = .legal i) :
    issue w s = beginCommand i (s.accept w) := by
  rw [issue, hd, hv]

/-- A word issued is taken and loads the latches, legal or not, in either view (R22, R144, log 21). -/
theorem issue_commandSide (h : issue w s = .next t) : t.commandSide = (s.accept w).commandSide := by
  unfold issue at h
  split at h
  next => exact illegalWord_commandSide h
  next =>
    split at h
    · exact finish_exec_commandSide h
    · exact beginCommand_commandSide h

/-- A big step completes its command, if the sink takes each byte eventually (R144, R186). -/
theorem issue_bigStep_busy (hc : s.cfg.WellFormed) (hv : s.view = .bigStep) (hp : s.phase = .idle)
    (hr : s.readyAfter = true) (h : issue w s = .next t) : t.status.busy = false := by
  cases hd : decode w with
  | illegal why =>
    cases (issue_illegal hc hd).symm.trans h
    rfl
  | legal i =>
    rw [issue_bigStep hv hd] at h
    obtain ⟨u, hu, rfl⟩ := finish_next h
    rw [if_pos (exec_phase_idle hu hp fun _ => hr)]
    rfl

/-- Only a FLUSH before INIT ends at its acceptance (R115, R144). -/
theorem beginCommand_busy (hb : s.status.busy = true) (hf : i = .flush → s.status.initDone = true)
    (h : beginCommand i s = .next t) : t.status.busy = true := by
  cases i with
  | flush =>
    cases (beginCommand_flush (hf rfl)).symm.trans h
    rfl
  | init =>
    cases h
    rfl
  | nop | setPixel x y v | fill v | getPixel x y =>
    cases h
    exact hb

end Sys2Proof.Machine

open Sys2Proof Sys2Proof.Machine

/-- Settles O43: no part of a busy block's step touches the words presented or the latches; an idle block's step
issues the word, and `busy` after it is what the command leaves in each view. -/
theorem commandAcceptance : Obligations.CommandAcceptance := by
  refine fun s hc hr => ⟨rfl, fun hb t ht => ?_, fun w rest hb hp => ?_⟩
  · exact State.commandSide_eq_iff.mp (step_busy_commandSide hc hr hb ht)
  · have hstep := step_issues hc hr hb hp
    obtain ⟨t, ht⟩ := answers_issue (s := s.popRst) hc w
    have htail : s.program.tail = rest := by rw [hp, List.tail_cons]
    obtain ⟨hprog, hop, hi, hy, hx⟩ := State.commandSide_eq_iff.mp (issue_commandSide ht)
    refine ⟨t, hstep.trans ht, hprog.trans htail, hop, hi, hy, hx, fun hv hidle hfair => ?_, fun hv i hd hf => ?_⟩
    · exact issue_bigStep_busy (s := s.popRst) hc hv hidle hfair ht
    · rw [issue_smallStep (s := s.popRst) hv hd] at ht
      exact beginCommand_busy (s := s.popRst.accept w) rfl hf ht

/-- Settles O44: the word is accepted, and then `err_illegal` is raised. -/
theorem illegalWordSetsItsFlagOnly : Obligations.IllegalWordSetsItsFlagOnly := by
  intro s w rest hc hr hb hp hw
  obtain ⟨why, hd⟩ := exists_decode_illegal_iff.mpr hw
  obtain rfl : s.program.tail = rest := by rw [hp, List.tail_cons]
  rw [step_issues hc hr hb hp, issue_illegal (s := s.popRst) hc hd]
  rfl

/-- Settles O18: NOP asks for a well-formed configuration and answers the state. -/
theorem nopChangesNothing : Obligations.NopChangesNothing := fun _ hc => configured_of hc

end

section
/-! PROOFS. The causes of the three errors (rules R153 to R155): what raising one does, and what each part of a step
does to the error flags. -/

namespace Sys2Proof.Machine

variable {s t : State} {w : Word} {rest : List Word} {i : Instr} {b : Transfer} {n k : Nat}

/-! ### Raising an error -/

/-- Bit `n` of `STATUS` depends on the field it holds only (R24). -/
theorem Status.word_getLsbD_congr {fallible : Bool} {st st' : Status} (hd : n = 0 → st.initDone = st'.initDone)
    (hb : n = 1 → st.busy = st'.busy) (hi : n = 2 → st.errIllegal = st'.errIllegal)
    (hn : n = 3 → st.errNoinit = st'.errNoinit) (hx : n = 4 → st.errXfer = st'.errXfer) :
    (st.word fallible).getLsbD n = (st'.word fallible).getLsbD n := by
  obtain ⟨h0, h1, h2, h3, h4, h5, h6, h7⟩ := st.word_getLsbD fallible
  obtain ⟨h0', h1', h2', h3', h4', h5', h6', h7'⟩ := st'.word_getLsbD fallible
  match n with
  | 0 => rw [h0, h0', hd rfl]
  | 1 => rw [h1, h1', hb rfl]
  | 2 => rw [h2, h2', hi rfl]
  | 3 => rw [h3, h3', hn rfl]
  | 4 => rw [h4, h4', hx rfl]
  | 5 => rw [h5, h5']
  | 6 => rw [h6, h6']
  | 7 => rw [h7, h7']
  | n + 8 => rw [BitVec.getLsbD_of_ge _ _ (by omega), BitVec.getLsbD_of_ge _ _ (by omega)]

/-- The bit of the error raised (R153, R154). -/
theorem statusPort_raise_bit (e : ErrorFlag) (h : e = .xfer → s.cfg.fallible = true) :
    (s.raise e).statusPort.getLsbD e.bit = true := by
  obtain ⟨-, -, hi, hn, hx, -, -, -⟩ := (s.raise e).status.word_getLsbD s.cfg.fallible
  cases e with
  | illegal => exact hi
  | noinit => exact hn
  | xfer => exact hx.trans (h rfl)

/-- Every bit but `busy` and the error's own (R154). -/
theorem statusPort_raise_other (e : ErrorFlag) (hbusy : n ≠ 1) (hbit : n ≠ e.bit) :
    (s.raise e).statusPort.getLsbD n = s.statusPort.getLsbD n := by
  cases e with
  | illegal =>
    exact Status.word_getLsbD_congr (fun _ => rfl) (absurd · hbusy) (absurd · hbit) (fun _ => rfl) (fun _ => rfl)
  | noinit =>
    exact Status.word_getLsbD_congr (fun _ => rfl) (absurd · hbusy) (fun _ => rfl) (absurd · hbit) (fun _ => rfl)
  | xfer =>
    exact Status.word_getLsbD_congr (fun _ => rfl) (absurd · hbusy) (fun _ => rfl) (fun _ => rfl) (absurd · hbit)

theorem raise_raise (e : ErrorFlag) (s : State) : (s.raise e).raise e = s.raise e := by
  cases e <;> rfl

/-! ### The error flags and their causes -/

/-- The three error flags (R153). -/
def State.errors (s : State) : Bool × Bool × Bool := (s.status.errIllegal, s.status.errNoinit, s.status.errXfer)

theorem State.errors_eq_iff {illegal noinit xfer : Bool} :
    s.errors = (illegal, noinit, xfer) ↔
      s.status.errIllegal = illegal ∧ s.status.errNoinit = noinit ∧ s.status.errXfer = xfer := by
  simp only [State.errors, Prod.mk.injEq]

/-- Between `s` and `t` the sink failed transfer `n`, the first it failed and the last one made (R125). -/
def FailedAt (n : Nat) (s t : State) : Prop :=
  s.sinkFailsAt n = true ∧ (∀ m < n, s.sinkFailsAt m = false) ∧ t.wire.length = s.wire.length + n + 1

/-- The cause of `err_illegal`: the word presented to an idle block is illegal (R141). -/
def IllegalCause (s : State) : Prop :=
  s.status.busy = false ∧ ∃ w rest why, s.program = w :: rest ∧ decode w = .illegal why

/-- The cause of `err_noinit`: a FLUSH, presented or latched, before INIT has completed (R115). -/
def NoinitCause (s : State) : Prop :=
  s.status.initDone = false ∧
    ((s.status.busy = false ∧ ∃ w rest, s.program = w :: rest ∧ decode w = .legal .flush) ∨
      (s.status.busy = true ∧ s.latched = .legal .flush))

/-- The command that makes the failing transfer `n`: an INIT or FLUSH in progress, which offers that byte, or one
accepted in the big-step view. -/
def SendsTransfer (n : Nat) (s t : State) : Prop :=
  (s.status.busy = true ∧ n = 0 ∧ (∃ b, s.txOffer = some b ∧ t.wire = s.wire ++ [b]) ∧
      (s.latched = .legal .init ∨ s.latched = .legal .flush ∧ s.status.initDone = true)) ∨
    (s.status.busy = false ∧ s.view = .bigStep ∧ ∃ w rest, s.program = w :: rest ∧
      ((decode w = .legal .flush ∧ s.status.initDone = true ∧ n < 7 + s.cfg.fbBytes) ∨
        (decode w = .legal .init ∧ n < (transfersOf (initEvents s.cfg)).length + (7 + s.cfg.fbBytes))))

/-- Everything that a step can do to the error flags: keep them, or raise one of them for its own cause. -/
def RaisesForCause (s t : State) : Prop :=
  t.errors = s.errors ∨
    (t.errors = (s.raise .illegal).errors ∧ IllegalCause s) ∨
    (t.errors = (s.raise .noinit).errors ∧ NoinitCause s) ∨
    (t.errors = (s.raise .xfer).errors ∧ ∃ n, FailedAt n s t ∧ SendsTransfer n s t)

theorem fallible_of_sinkFailsAt (h : s.sinkFailsAt n = true) : s.cfg.fallible = true :=
  (Bool.and_eq_true_iff.mp h).1

/-! ### Sending -/

theorem failedAt_zero (hf : s.sinkFails = true) (hw : t.wire = s.wire ++ [b]) : FailedAt 0 s t :=
  ⟨s.sinkFailsAt_zero.trans hf, nofun, by rw [hw, List.length_append, List.length_singleton]⟩

/-- A transfer that the sink accepts comes before those counted so far. -/
theorem FailedAt.after_accepted (hf : s.sinkFails = false) (h : FailedAt n (s.awaited.transfer b) t) :
    FailedAt (n + 1) s t := by
  obtain ⟨hfail, hacc, hlen⟩ := h
  simp only [State.sinkFailsAt_transfer, State.sinkFailsAt_awaited] at hfail hacc
  refine ⟨hfail, fun m hm => ?_, ?_⟩
  · cases m with
    | zero => exact s.sinkFailsAt_zero.trans hf
    | succ m => exact hacc m (Nat.lt_of_succ_lt_succ hm)
  · rw [hlen, State.transfer_wire, State.awaited_wire, List.length_append, List.length_singleton]
    omega

/-- What sending at most `k` transfers can do to the error flags: nothing, or `err_xfer` at a transfer that fails. -/
def SendEffect (k : Nat) (s t : State) : Prop :=
  t.errors = s.errors ∨ (t.errors = (s.raise .xfer).errors ∧ ∃ n < k, FailedAt n s t)

theorem SendEffect.after_accepted (hf : s.sinkFails = false) (h : SendEffect k (s.awaited.transfer b) t) :
    SendEffect (k + 1) s t := by
  obtain h | ⟨h, n, hn, hfail⟩ := h
  · exact .inl h
  · exact .inr ⟨h, n + 1, Nat.succ_lt_succ hn, hfail.after_accepted hf⟩

theorem sendThen_effect {c : Config} {next : State → State} (hnext : ∀ u, u.cfg = c → SendEffect k u (next u))
    (ts : List Transfer) (hc : s.cfg = c) : SendEffect (ts.length + k) s (sendThen ts next s) := by
  induction ts generalizing s with
  | nil =>
    rw [sendThen_nil, List.length_nil, Nat.zero_add]
    exact hnext s hc
  | cons b ts ih =>
    rw [sendThen_cons, List.length_cons, Nat.add_right_comm]
    cases hf : s.sinkFails with
    | true => exact .inr ⟨rfl, 0, Nat.succ_pos _, failedAt_zero hf rfl⟩
    | false => exact (ih (s := s.awaited.transfer b) hc).after_accepted hf

theorem flushState_effect (s : State) : SendEffect (7 + s.cfg.fbBytes) s (flushState s) := by
  have h := sendThen_effect (k := 0) (next := State.flushDone) (fun _ _ => .inl rfl)
    (transfersOf (flushEvents s.cfg s.streamBytes)) (rfl : s.cfg = s.cfg)
  rwa [← flushState_eq_sendThen, length_transfersOf_flushEvents, State.streamBytes_length] at h

theorem initState_effect (s : State) :
    SendEffect ((transfersOf (initEvents s.cfg)).length + (7 + s.cfg.fbBytes)) s (initState s) := by
  rw [initState_eq_sendThen]
  refine sendThen_effect (fun u hu => ?_) _ rfl
  rw [← hu]
  exact flushState_effect (zeroFilled u)

/-! ### Commands -/

/-- A FLUSH before INIT has completed raises `err_noinit` (R115). -/
def EarlyFlush (i : Instr) (s t : State) : Prop :=
  i = .flush ∧ s.status.initDone = false ∧ t.errors = (s.raise .noinit).errors

theorem exec_quiet_errors (h : exec i s = .next t) (hni : i ≠ .init) (hnf : i ≠ .flush) : t.errors = s.errors := by
  obtain ⟨-, -, -, -, hstatus, -, -⟩ := exec_quiet h hni hnf
  rw [State.errors, hstatus, State.errors]

/-- What each command can do to the error flags in the big-step view. -/
theorem exec_errors (h : exec i s = .next t) :
    t.errors = s.errors ∨ EarlyFlush i s t ∨
      (i = .flush ∧ s.status.initDone = true ∧ SendEffect (7 + s.cfg.fbBytes) s t) ∨
      (i = .init ∧ SendEffect ((transfersOf (initEvents s.cfg)).length + (7 + s.cfg.fbBytes)) s t) := by
  cases i with
  | init =>
    obtain ⟨-, h⟩ := configured_next h
    cases h
    split
    · exact .inr (.inr (.inr ⟨rfl, initState_effect s⟩))
    · exact .inl rfl
  | flush =>
    obtain ⟨-, h⟩ := configured_next h
    split at h <;> cases h
    next hd =>
      split
      · exact .inr (.inr (.inl ⟨rfl, hd, flushState_effect s⟩))
      · exact .inl rfl
    next hd => exact .inr (.inl ⟨rfl, by simpa using hd, rfl⟩)
  | nop | setPixel x y v | fill v | getPixel x y => exact .inl (exec_quiet_errors h nofun nofun)

theorem beginCommand_errors (h : beginCommand i s = .next t) : t.errors = s.errors ∨ EarlyFlush i s t := by
  cases i with
  | flush =>
    rw [beginCommand] at h
    split at h <;> cases h
    · exact .inl rfl
    next hd => exact .inr ⟨rfl, by simpa using hd, rfl⟩
  | nop | init | setPixel x y v | fill v | getPixel x y =>
    cases h
    exact .inl rfl

/-! ### A busy block -/

theorem Phase.flushing_of_ne {p : Phase} (hi : p ≠ .idle) (hs : p ≠ .initSeq) (hz : p ≠ .zero) : p.flushing = true := by
  cases p with
  | idle => exact absurd rfl hi
  | initSeq => exact absurd rfl hs
  | zero => exact absurd rfl hz
  | fColCmd | fColMin | fColMax | fRowCmd | fRowMin | fRowMax | fWram | fStream => rfl

/-- A byte is offered for an INIT, or for a FLUSH with `init_done` (R110, R115). -/
theorem RunInv.offers_for_driver (h : RunInv s) (ho : s.txOffer = some b) :
    s.latched = .legal .init ∨ s.latched = .legal .flush ∧ s.status.initDone = true := by
  have hidle : s.phase ≠ .idle := fun hp => by simp [State.txOffer, hp] at ho
  refine (h.walkIsDriver hidle).imp_right fun hflush => ⟨hflush, h.flushAfterInit ?_⟩
  have hne : s.latched ≠ .legal .init := by simp [hflush]
  exact Phase.flushing_of_ne hidle (fun hp => hne (h.fillIsInit (.inl hp))) (fun hp => hne (h.fillIsInit (.inr hp)))

theorem afterByte_errors (s : State) : s.afterByte.errors = s.errors := by
  unfold State.afterByte
  cases s.phase with
  | fStream => exact (apply_ite State.errors ..).trans (ite_self _)
  | idle | initSeq | zero | fColCmd | fColMin | fColMax | fRowCmd | fRowMin | fRowMax | fWram => rfl

theorem zeroStep_errors (h : zeroStep s = .next t) : t.errors = s.errors := by
  unfold zeroStep at h
  split at h
  next u hw =>
    obtain ⟨-, rfl⟩ := memWrite_next hw
    split at h <;> cases h <;> rfl
  all_goals cases h

theorem RunInv.offerByte_raises (hinv : RunInv s) (ho : s.txOffer = some b) (h : offerByte b s = .next t) :
    RaisesForCause s t := by
  obtain ⟨-, rfl⟩ | ⟨-, hf, rfl⟩ | ⟨-, -, rfl⟩ := offerByte_next h
  · exact .inl rfl
  · refine .inr (.inr (.inr ⟨rfl, 0, failedAt_zero (b := b) hf rfl, .inl ⟨busy_of_txOffer ho, rfl, ⟨b, ho, rfl⟩, ?_⟩⟩))
    exact hinv.offers_for_driver ho
  · exact .inl (afterByte_errors _)

theorem beginCommand_latched_raises (hb : s.status.busy = true) (hi : s.latched = .legal i)
    (h : beginCommand i s = .next t) : RaisesForCause s t := by
  obtain h | ⟨rfl, hearly, h⟩ := beginCommand_errors h
  · exact .inl h
  · exact .inr (.inr (.inl ⟨h, hearly, .inr ⟨hb, hi⟩⟩))

/-- No illegal word is ever latched by a busy block, so no latched command raises `err_illegal` (R141). -/
theorem RunInv.runLatched_raises (hinv : RunInv s) (hb : s.status.busy = true) (h : runLatched s = .next t) :
    RaisesForCause s t := by
  obtain ⟨i, hi⟩ := hinv.busyIsLegal hb
  rw [runLatched, hi] at h
  cases i with
  | init | flush => exact beginCommand_latched_raises hb hi h
  | nop | setPixel x y v | fill v | getPixel x y =>
    obtain ⟨u, hu, rfl⟩ := finish_next h
    have hkeep : u.errors = s.errors := exec_quiet_errors hu nofun nofun
    split <;> exact .inl hkeep

theorem RunInv.sequencerStep_raises (hinv : RunInv s) (hb : s.status.busy = true) (h : sequencerStep s = .next t) :
    RaisesForCause s t := by
  unfold sequencerStep at h
  split at h
  next b ho => exact hinv.offerByte_raises ho h
  next =>
    cases hp : s.phase <;> rw [hp] at h
    case idle => exact hinv.runLatched_raises hb h
    case zero => exact .inl (zeroStep_errors h)
    case fStream => cases h
    all_goals
      cases h
      exact .inl rfl

/-! ### An idle block -/

theorem exec_accept_raises (hb : s.status.busy = false) (hv : s.view = .bigStep) (hp : s.program = w :: rest)
    (hd : decode w = .legal i) (h : exec i (s.accept w) = .next t) : RaisesForCause s t := by
  obtain h | ⟨rfl, hearly, h⟩ | ⟨rfl, hdone, h | ⟨h, n, hn, hfail⟩⟩ | ⟨rfl, h | ⟨h, n, hn, hfail⟩⟩ := exec_errors h
  · exact .inl h
  · exact .inr (.inr (.inl ⟨h, hearly, .inl ⟨hb, w, rest, hp, hd⟩⟩))
  · exact .inl h
  · exact .inr (.inr (.inr ⟨h, n, hfail, .inr ⟨hb, hv, w, rest, hp, .inl ⟨hd, hdone, hn⟩⟩⟩))
  · exact .inl h
  · exact .inr (.inr (.inr ⟨h, n, hfail, .inr ⟨hb, hv, w, rest, hp, .inr ⟨hd, hn⟩⟩⟩))

theorem issue_raises (hb : s.status.busy = false) (hp : s.program = w :: rest) (h : issue w s = .next t) :
    RaisesForCause s t := by
  unfold issue at h
  split at h
  next why hd =>
    obtain ⟨-, h⟩ := configured_next h
    cases h
    exact .inr (.inl ⟨rfl, hb, w, rest, why, hp, hd⟩)
  next i hd =>
    split at h
    next hv =>
      obtain ⟨u, hu, rfl⟩ := finish_next h
      have hraises := exec_accept_raises hb hv hp hd hu
      split <;> exact hraises
    next =>
      obtain h | ⟨rfl, hearly, h⟩ := beginCommand_errors h
      · exact .inl h
      · exact .inr (.inr (.inl ⟨h, hearly, .inl ⟨hb, w, rest, hp, hd⟩⟩))

/-! ### The step -/

theorem RunInv.runStep_raises (hinv : RunInv s) (h : runStep s = .next t) : RaisesForCause s t := by
  cases hb : s.status.busy with
  | true => exact hinv.sequencerStep_raises hb ((runStep_busy hb).symm.trans h)
  | false =>
    cases hp : s.program with
    | nil =>
      cases (runStep_waiting hb hp).symm.trans h
      exact .inl rfl
    | cons w rest => exact issue_raises hb hp ((runStep_issues hb hp).symm.trans h)

/-- The invariant says nothing of the samples of `rst`. -/
theorem RunInv.popRst (h : RunInv s) : RunInv s.popRst :=
  ⟨h.configured, h.canonical, h.bounded, h.freeIsIdle, h.busyIsLegal, h.walkIsDriver, h.fillIsInit, h.cursor,
    h.flushAfterInit, h.hardwired, h.missIsZero, h.nativeFits, h.specified, h.zeroed⟩

/-- With `rst` deasserted the only errors of a step are those of R153, each for its own cause (R153, R155). -/
theorem RunInv.step_raises (hinv : RunInv s) (hr : s.rstAsserted = false) (h : step s = .next t) :
    RaisesForCause s t := by
  rw [step_of_rstLow hinv.configured hr] at h
  exact hinv.popRst.runStep_raises h

/-- A flag that is kept has not risen. -/
theorem not_risen_of_kept {old new : Bool} {p : Prop} (h : new = old) (hold : old = false) (hnew : new = true) : p := by
  simp [h, hold] at hnew

end Sys2Proof.Machine

open Sys2Proof Sys2Proof.Machine

/-- Settles O40: a step keeps the three flags or raises one for its own cause, and then the clauses of the other
two are void. -/
theorem errorsHaveTheirCause : Obligations.ErrorsHaveTheirCause := by
  intro s t hinv hr ht
  obtain h | ⟨h, cause⟩ | ⟨h, cause⟩ | ⟨h, n, ⟨hfail, hacc, hlen⟩, hsends⟩ := hinv.step_raises hr ht <;>
    obtain ⟨hi, hn, hx⟩ := State.errors_eq_iff.mp h
  · exact ⟨not_risen_of_kept hi, not_risen_of_kept hn, not_risen_of_kept hx, absurd hi, absurd hn⟩
  · exact ⟨fun _ _ => cause, not_risen_of_kept hn, not_risen_of_kept hx, fun _ => ⟨hn, hx⟩, absurd hn⟩
  · exact ⟨not_risen_of_kept hi, fun _ _ => cause, not_risen_of_kept hx, absurd hi, fun _ => hx⟩
  · exact ⟨not_risen_of_kept hi, not_risen_of_kept hn,
      fun _ _ => ⟨fallible_of_sinkFailsAt hfail, n, hfail, hacc, hlen, hsends⟩, absurd hi, absurd hn⟩

/-- Settles O39: `raise` writes `busy`, the error's own flag and `seq_phase`. -/
theorem raiseSetsOneFlag : Obligations.RaiseSetsOneFlag := by
  intro s e he
  obtain ⟨-, hbusy, -⟩ := (s.raise e).status.word_getLsbD s.cfg.fallible
  exact ⟨statusPort_raise_bit e he, hbusy.trans rfl, fun _ => statusPort_raise_other e, rfl, raise_raise e s, rfl⟩

end

section
/-! PROOFS. Reset (rules R170, R172), and how the commands end (rule R186): each completes with a sink that takes
each byte eventually, within a bound on the steps, and INIT and FLUSH hang with a sink that never takes one. -/

namespace Sys2Proof.Machine

variable {s t u : State} {b : Transfer} {c : Config} {bytes : List Byte} {p p' : Phase} {n n' : Nat} {w : Word}
  {rest : List Word} {i : Instr}

/-! ### Reset -/

theorem step_of_rstHigh (hc : s.cfg.WellFormed) (hr : s.rstAsserted = true) : step s = .next s.popRst.resetBlock :=
  (configured_of hc).trans (if_pos hr)

/-- With every bit of `STATUS` clear the kind of transport does not show (R24). -/
theorem resetBlock_statusPort (s : State) : s.resetBlock.statusPort = 0x00 := by
  rw [State.statusPort, State.resetBlock_status]
  cases s.resetBlock.cfg.fallible <;> rfl

theorem resetBlock_respPort (s : State) : s.resetBlock.respPort = 0x000 := by
  rw [State.respPort, State.resetBlock_resp]
  rfl

/-- A walk cut short leaves the device stale (R172). -/
theorem resetBlock_deviceStale_of_walk (h : s.phase ≠ .idle) : s.resetBlock.deviceStale = true := by
  rw [State.resetBlock_deviceStale, decide_eq_true h, Bool.or_true]

/-! ### The steps left -/

theorem State.cursorInBounds.eq_zero (h : s.cursorInBounds) (hp : s.phase = .idle) : s.cursor = 0 := by
  unfold State.cursorInBounds at h
  rwa [hp] at h

theorem State.cursorInBounds.le_sequence (h : s.cursorInBounds) (hp : s.phase = .initSeq) :
    s.cursor ≤ (transfersOf (initEvents s.cfg)).length := by
  unfold State.cursorInBounds at h
  rwa [hp] at h

/-- The steps that a busy block still takes from a place of the step table (R121) with a sink that takes each byte
at once and fails none; for a command not yet begun, the most that any command takes. -/
def stepsFrom (c : Config) : Phase → Nat → Nat
  | .idle, _ => (transfersOf (initEvents c)).length + 2 * c.fbBytes + 9
  | .initSeq, n => (transfersOf (initEvents c)).length - n + 2 * c.fbBytes + 8
  | .zero, n => c.fbBytes - n + c.fbBytes + 7
  | .fColCmd, _ => c.fbBytes + 7
  | .fColMin, _ => c.fbBytes + 6
  | .fColMax, _ => c.fbBytes + 5
  | .fRowCmd, _ => c.fbBytes + 4
  | .fRowMin, _ => c.fbBytes + 3
  | .fRowMax, _ => c.fbBytes + 2
  | .fWram, _ => c.fbBytes + 1
  | .fStream, n => c.fbBytes - n

theorem stepsFrom_le (c : Config) (p : Phase) (n : Nat) :
    stepsFrom c p n ≤ (transfersOf (initEvents c)).length + 2 * c.fbBytes + 9 := by
  cases p <;> simp only [stepsFrom] <;> omega

/-- The steps left, a stalled step for each sample of `tx_ready` included. -/
def State.stepsLeft (s : State) : Nat := s.readyIn.length + stepsFrom s.cfg s.phase s.cursor

theorem State.cursorInBounds.stepsLeft_pos (h : s.cursorInBounds) : 0 < s.stepsLeft := by
  refine Nat.add_pos_right _ ?_
  cases hp : s.phase with
  | fStream => exact Nat.sub_pos_of_lt (h.lt_fbBytes (.inr hp))
  | idle | initSeq | zero | fColCmd | fColMin | fColMax | fRowCmd | fRowMin | fRowMax | fWram =>
    exact Nat.succ_pos _

/-- The command has ended in `t`, or goes on there with fewer steps left. -/
def NearerEnd (s t : State) : Prop :=
  t.status.busy = false ∨ (Walking t ∧ t.cursorInBounds ∧ t.stepsLeft < s.stepsLeft)

/-- The step of a command in progress brings it nearer to its end. -/
def Advances (s : State) : Prop := ∃ t, step s = .next t ∧ NearerEnd s t

/-- Each row that sends a byte leads to a place with fewer steps left. -/
theorem SendRow.stepsFrom_lt (row : SendRow c bytes p n b p' n') : stepsFrom c p' n' < stepsFrom c p n := by
  cases row with
  | sequence hseq =>
    obtain ⟨hlt, -⟩ := List.getElem?_eq_some_iff.mp hseq
    simp only [stepsFrom]
    omega
  | stream _ hmore =>
    simp only [stepsFrom]
    omega
  | colCmd | colMin | colMax | rowCmd | rowMin | rowMax | writeRam => exact Nat.lt_succ_self _

/-- Each row that sends a byte keeps the cursor within what it indexes (R23). -/
theorem SendRow.cursorInBounds (row : SendRow c bytes p n b p' n') (h : s.At c bytes p n) (hc : s.cfg.WellFormed)
    (hcur : s.cursorInBounds) : (s.moveTo p' n').cursorInBounds := by
  obtain ⟨rfl, -, hp, rfl⟩ := h
  unfold State.cursorInBounds at hcur
  rw [hp] at hcur
  cases row with
  | sequence hseq => exact (List.getElem?_eq_some_iff.mp hseq).1
  | writeRam => exact hc.fbBytes_pos
  | stream _ hmore => exact hmore
  | colCmd | colMin | colMax | rowCmd | rowMin | rowMax => exact hcur

theorem length_samplesAfterByte_le (samples : List Bool) : (samplesAfterByte samples).length ≤ samples.length := by
  induction samples with
  | nil => exact Nat.le_refl _
  | cons ready later ih =>
    cases ready with
    | true => exact Nat.le_succ _
    | false => exact Nat.le_succ_of_le ih

/-! ### One step of a command in progress -/

theorem Walking.step_eq (h : Walking s) : step s = sequencerStep s := step_busy h.configured h.noReset h.busy

/-- A byte offered is taken, or the sink's stall uses up a sample of `tx_ready` (R32). -/
theorem Walking.offer_advances (h : Walking s) (hcur : s.cursorInBounds) (ho : s.txOffer = some b)
    (htaken : NearerEnd s (s.byteTaken b)) : Advances s := by
  rw [Advances, step_of_no_reset h.configured h.noReset]
  cases hr : s.readyIn.head?.getD s.readyAfter with
  | true => exact ⟨_, runStep_taken ho hr, htaken⟩
  | false =>
    refine ⟨_, runStep_stalled ho hr, .inr ⟨⟨h.configured, h.noReset, h.fair, h.busy⟩, hcur, ?_⟩⟩
    have hne : s.readyIn ≠ [] := fun hi => by simp [hi, h.fair] at hr
    exact Nat.add_lt_add_right (by simpa using List.length_pos_iff.mpr hne) _

theorem SendRow.advances (row : SendRow c bytes p n b p' n') (hat : s.At c bytes p n) (h : Walking s)
    (hcur : s.cursorInBounds) : Advances s := by
  refine h.offer_advances hcur (row.txOffer hat h.busy) ?_
  rw [State.byteTaken, row.afterByte hat]
  split
  · exact .inl rfl
  · have hbounds := row.cursorInBounds hat h.configured hcur
    have hsteps := row.stepsFrom_lt
    obtain ⟨rfl, -, rfl, rfl⟩ := hat
    exact .inr ⟨⟨h.configured, h.noReset, h.fair, h.busy⟩, hbounds,
      Nat.add_lt_add_of_le_of_lt (length_samplesAfterByte_le s.readyIn) hsteps⟩

/-- The stream's last byte ends the command, taken or failed (R121, R125). -/
theorem Walking.stream_last_advances (h : Walking s) (hcur : s.cursorInBounds) (hp : s.phase = .fStream)
    (hlast : s.cursor + 1 = s.cfg.fbBytes) : Advances s := by
  refine h.offer_advances hcur (txOffer_streaming h.busy hp (by omega)) (.inl ?_)
  rw [State.byteTaken, afterByte_stream_last hp hlast]
  split <;> rfl

theorem Walking.zero_advances (h : Walking s) (hcur : s.cursorInBounds) (hp : s.phase = .zero) :
    Advances s := by
  have hlt : s.cursor < s.cfg.fbBytes := hcur.lt_fbBytes (.inl hp)
  rw [Advances, h.step_eq, sequencerStep_zero hp]
  obtain hlast | hmore := Nat.eq_or_lt_of_le (Nat.succ_le_of_lt hlt)
  · refine ⟨_, zeroStep_last hlast, .inr ⟨⟨h.configured, h.noReset, h.fair, h.busy⟩, rfl, ?_⟩⟩
    simp only [State.stepsLeft, hp, stepsFrom]
    omega
  · refine ⟨_, zeroStep_more hmore, .inr ⟨⟨h.configured, h.noReset, h.fair, h.busy⟩, ?_, ?_⟩⟩
    · unfold State.cursorInBounds
      simpa only [hp] using hmore
    · simp only [State.stepsLeft, hp, stepsFrom]
      omega

/-- The sequence's next byte, or its end (R121). -/
theorem Walking.sequence_advances (h : Walking s) (hcur : s.cursorInBounds) (hp : s.phase = .initSeq) :
    Advances s := by
  obtain hend | hlt := Nat.eq_or_lt_of_le (hcur.le_sequence hp)
  · refine ⟨_, h.step_eq.trans (sequencerStep_sequence_end hp hend),
      .inr ⟨⟨h.configured, h.noReset, h.fair, h.busy⟩, h.configured.fbBytes_pos, ?_⟩⟩
    simp only [State.stepsLeft, State.moveTo, hp, stepsFrom]
    omega
  · exact (SendRow.sequence (List.getElem?_eq_getElem hlt)).advances ⟨rfl, rfl, hp, rfl⟩ h hcur

/-- A command other than INIT and FLUSH completes at once (R144). -/
theorem finish_exec_quiet (hc : s.cfg.WellFormed) (hp : s.phase = .idle) (hni : i ≠ .init) (hnf : i ≠ .flush) :
    ∃ t, finish (exec i s) = .next t ∧ t.status.busy = false := by
  obtain ⟨t, ht⟩ := answers_exec hc i
  obtain ⟨-, -, -, -, -, hphase, -⟩ := exec_quiet ht hni hnf
  exact ⟨t.complete, by rw [ht, finish_idle (hphase.trans hp)], rfl⟩

/-- The latched command begins its walk, or ends (log 17). -/
theorem Walking.latched_advances (h : Walking s) (hcur : s.cursorInBounds) (hp : s.phase = .idle) :
    Advances s := by
  have hquiet {i : Instr} (hni : i ≠ .init) (hnf : i ≠ .flush) :
      ∃ t, finish (exec i s) = .next t ∧ NearerEnd s t :=
    (finish_exec_quiet h.configured hp hni hnf).imp fun _ => And.imp_right .inl
  rw [Advances, h.step_eq, sequencerStep_idle hp, runLatched]
  split
  next => exact ⟨_, configured_of h.configured, .inl rfl⟩
  next =>
    refine ⟨_, rfl, .inr ⟨⟨h.configured, h.noReset, h.fair, rfl⟩, Nat.zero_le _, ?_⟩⟩
    simp only [State.stepsLeft, State.beginInit, hp, stepsFrom]
    omega
  next =>
    cases hd : s.status.initDone with
    | false => exact ⟨_, beginCommand_flush_early hd, .inl rfl⟩
    | true =>
      refine ⟨_, beginCommand_flush hd, .inr ⟨⟨h.configured, h.noReset, h.fair, rfl⟩, hcur.eq_zero hp, ?_⟩⟩
      simp only [State.stepsLeft, State.beginFlush, hp, stepsFrom]
      omega
  all_goals exact hquiet nofun nofun

theorem Walking.advances (h : Walking s) (hcur : s.cursorInBounds) : Advances s := by
  have row {b : Transfer} {p p' : Phase} {n' : Nat} (hp : s.phase = p)
      (hrow : SendRow s.cfg s.streamBytes p s.cursor b p' n') := hrow.advances ⟨rfl, rfl, hp, rfl⟩ h hcur
  cases hp : s.phase with
  | idle => exact h.latched_advances hcur hp
  | initSeq => exact h.sequence_advances hcur hp
  | zero => exact h.zero_advances hcur hp
  | fColCmd => exact row hp .colCmd
  | fColMin => exact row hp .colMin
  | fColMax => exact row hp .colMax
  | fRowCmd => exact row hp .rowCmd
  | fRowMin => exact row hp .rowMin
  | fRowMax => exact row hp .rowMax
  | fWram => exact row hp .writeRam
  | fStream =>
    have hlt : s.cursor < s.cfg.fbBytes := hcur.lt_fbBytes (.inr hp)
    obtain hlast | hmore := Nat.eq_or_lt_of_le (Nat.succ_le_of_lt hlt)
    · exact h.stream_last_advances hcur hp hlast
    · exact row hp (.stream (s.streamBytes_getElem? hlt) hmore)

/-- A command in progress ends within the steps left (R186). -/
theorem Walking.ends_within (h : Walking s) (hcur : s.cursorInBounds) :
    ∃ n ≤ s.stepsLeft, ∃ t : State, Sys2Proof.core.run n s = .next t ∧ t.status.busy = false := by
  induction hleft : s.stepsLeft using Nat.strong_induction_on generalizing s with
  | _ left ih =>
    subst hleft
    obtain ⟨t, hstep, hdone | ⟨ht, htcur, hlt⟩⟩ := h.advances hcur
    · exact ⟨1, hcur.stepsLeft_pos, t, run_succ_of_next 0 hstep, hdone⟩
    · obtain ⟨n, hn, u, hrun, hdone⟩ := ih _ hlt ht htcur rfl
      exact ⟨n + 1, by omega, u, (run_succ_of_next n hstep).trans hrun, hdone⟩

/-! ### A dead sink -/

/-- A command in progress that is not cut by `rst`, with a sink that takes no byte. -/
structure DeadSink (s : State) : Prop where
  configured : s.cfg.WellFormed
  noReset : s.rstIn = []
  noSamples : s.readyIn = []
  dead : s.readyAfter = false
  busy : s.status.busy = true

/-- The block comes to offer a byte to the dead sink, with nothing sent and no word accepted before. -/
def Hangs (s : State) : Prop :=
  ∃ t b, Leads s t ∧ DeadSink t ∧ t.txOffer = some b ∧ t.wire = s.wire ∧ t.program = s.program

theorem DeadSink.hangs_of_offer (h : DeadSink s) (ho : s.txOffer = some b) : Hangs s :=
  ⟨s, b, .refl, h, ho, rfl, rfl⟩

/-- A step that neither sends nor accepts a word comes before. -/
theorem DeadSink.hangs_of_step (h : DeadSink s) (hs : sequencerStep s = .next u) (hw : u.wire = s.wire)
    (hp : u.program = s.program) (hu : Hangs u) : Hangs s := by
  obtain ⟨t, b, hleads, ht, ho, hwire, hprog⟩ := hu
  exact ⟨t, b, .head ⟨h.busy, (step_busy h.configured h.noReset h.busy).trans hs⟩ hleads, ht, ho, hwire.trans hw,
    hprog.trans hp⟩

theorem DeadSink.hangs_flush (h : DeadSink s) (hp : s.phase = .fColCmd) : Hangs s :=
  h.hangs_of_offer ((SendRow.colCmd (c := s.cfg) (bytes := s.streamBytes)).txOffer ⟨rfl, rfl, hp, rfl⟩ h.busy)

/-- The zero-fill sends nothing and goes on to the flush (R121). -/
theorem DeadSink.hangs_zero (h : DeadSink s) (hp : s.phase = .zero) (hn : s.cursor + 1 + n = s.cfg.fbBytes) :
    Hangs s := by
  have hstep := sequencerStep_zero hp
  induction n generalizing s with
  | zero =>
    exact h.hangs_of_step (hstep.trans (zeroStep_last hn)) rfl rfl
      (DeadSink.hangs_flush ⟨h.configured, h.noReset, h.noSamples, h.dead, h.busy⟩ rfl)
  | succ n ih =>
    have hmore : s.cursor + 1 < s.cfg.fbBytes := by omega
    refine h.hangs_of_step (hstep.trans (zeroStep_more hmore)) rfl rfl
      (ih ⟨h.configured, h.noReset, h.noSamples, h.dead, h.busy⟩ hp ?_ (sequencerStep_zero hp))
    show s.cursor + 1 + 1 + n = s.cfg.fbBytes
    omega

/-- INIT hangs at the first byte of its sequence, or, where that is empty, at the first byte of its flush. -/
theorem DeadSink.hangs_sequence (h : DeadSink s) (hp : s.phase = .initSeq) (hcur : s.cursor = 0) : Hangs s := by
  obtain hend | hlt := Nat.eq_zero_or_pos (transfersOf (initEvents s.cfg)).length
  · obtain ⟨k, hk⟩ := Nat.exists_eq_add_of_lt h.configured.fbBytes_pos
    have hzero : Hangs (s.moveTo .zero 0) :=
      DeadSink.hangs_zero (n := k) ⟨h.configured, h.noReset, h.noSamples, h.dead, h.busy⟩ rfl
        (show 0 + 1 + k = s.cfg.fbBytes by omega)
    exact h.hangs_of_step (sequencerStep_sequence_end hp (hcur.trans hend.symm)) rfl rfl hzero
  · have row := SendRow.sequence (bytes := s.streamBytes) (List.getElem?_eq_getElem hlt)
    exact h.hangs_of_offer (row.txOffer ⟨rfl, rfl, hp, hcur⟩ h.busy)

/-- With a sink that may stop taking bytes INIT and FLUSH are begun, in either view (R186, log 9). -/
theorem issue_unfair (hc : s.cfg.WellFormed) (hr : s.readyAfter = false) (hd : decode w = .legal i)
    (hi : i = .init ∨ i = .flush ∧ s.status.initDone = true) : issue w s = beginCommand i (s.accept w) := by
  cases hv : s.view with
  | smallStep => exact issue_smallStep hv hd
  | bigStep =>
    rw [issue_bigStep hv hd]
    obtain rfl | ⟨rfl, hdone⟩ := hi
    · rw [exec_init_of_unfair (by exact hc) (by exact hr)]
      exact finish_walking (nofun : Phase.initSeq ≠ .idle)
    · rw [exec_flush_of_unfair (by exact hc) (by exact hdone) (by exact hr), beginCommand_flush (by exact hdone)]
      exact finish_walking (nofun : Phase.fColCmd ≠ .idle)

/-- INIT, and FLUSH with `init_done`, begin and then hang. -/
theorem beginCommand_hangs (h : DeadSink s) (hi : i = .init ∨ i = .flush ∧ s.status.initDone = true) :
    ∃ u, beginCommand i s = .next u ∧ Hangs u ∧ u.wire = s.wire ∧ u.program = s.program := by
  have hnext {u : State} (hu : u = s.beginInit ∨ u = s.beginFlush) : DeadSink u := by
    obtain rfl | rfl := hu <;> exact ⟨h.configured, h.noReset, h.noSamples, h.dead, rfl⟩
  obtain rfl | ⟨rfl, hdone⟩ := hi
  · exact ⟨_, rfl, (hnext (.inl rfl)).hangs_sequence rfl rfl, rfl, rfl⟩
  · exact ⟨_, beginCommand_flush hdone, (hnext (.inr rfl)).hangs_flush rfl, rfl, rfl⟩

end Sys2Proof.Machine

open Sys2Proof Sys2Proof.Machine

/-- Settles O3: the step is `resetBlock`, which writes the registers, sends nothing, and marks the device stale where
it cut a walk. -/
theorem resetInputTakesEffect : Obligations.ResetInputTakesEffect := by
  intro s hc hr
  exact ⟨_, step_of_rstHigh hc hr, resetBlock_statusPort _, resetBlock_respPort _, rfl, rfl, rfl, rfl, rfl,
    fun hwalk => panelByte_of_stale (resetBlock_deviceStale_of_walk (s := s.popRst) hwalk)⟩

/-- Settles O34: every command answers a next state, and only a sink that need not take each byte leaves the
sequencer on its way. -/
theorem everyCommandCompletes : Obligations.EveryCommandCompletes := by
  intro i s hc hp hr
  obtain ⟨t, ht⟩ := answers_exec hc i
  have hidle : t.phase = .idle := exec_phase_idle ht hp hr
  exact ⟨t, ht, hidle, by rw [ht, finish_idle hidle]⟩

/-- Settles O48: the command ends within the steps left, which the configuration and the samples of `tx_ready`
bound. -/
theorem everyCommandTerminates : Obligations.EveryCommandTerminates := by
  intro s hinv hrst hr
  cases hb : s.status.busy with
  | false => exact ⟨0, Nat.zero_le _, s, run_zero s, hb⟩
  | true =>
    have hw : Walking s := ⟨hinv.configured, hrst, hr, hb⟩
    obtain ⟨n, hn, hends⟩ := hw.ends_within hinv.cursor
    have hsteps := stepsFrom_le s.cfg s.phase s.cursor
    rw [State.stepsLeft] at hn
    exact ⟨n, by omega, hends⟩

/-- Settles O50: in either view the command begins and comes to offer a byte, and there the block is at a fixed point
of `step`. -/
theorem deadSinkHangsInitAndFlush : Obligations.DeadSinkHangsInitAndFlush := by
  intro s w rest hc hrst hi hr hb hp hprog hcmd
  have hbegins : ∃ i, decode w = .legal i ∧ (i = .init ∨ i = .flush ∧ s.status.initDone = true) := by
    obtain hd | ⟨hd, hdone⟩ := hcmd
    · exact ⟨_, hd, .inl rfl⟩
    · exact ⟨_, hd, .inr ⟨rfl, hdone⟩⟩
  obtain ⟨i, hd, hdriver⟩ := hbegins
  have hdead : DeadSink (s.accept w) := ⟨hc, hrst, hi, hr, rfl⟩
  obtain ⟨u, hu, ⟨t, b, hleads, ht, ho, hwire, htail⟩, huw, hup⟩ := beginCommand_hangs hdead hdriver
  have hstep : step s = .next u := by
    rw [step_of_no_reset hc hrst, runStep_issues hb hprog, issue_unfair hc hr hd hdriver, hu]
  have hfix : step t = .next t := step_dead_sink ht.configured ht.noReset ho ht.noSamples ht.dead
  obtain ⟨n, hrun, -⟩ := hleads.run
  have hreach : Sys2Proof.core.run (n + 1) s = .next t := (run_succ_of_next n hstep).trans hrun
  have hrest : (s.accept w).program = rest := by rw [State.accept_program, hprog, List.tail_cons]
  refine ⟨n + 1, t, hreach, hfix, fun m => (run_add m hreach).trans (run_of_fixed hfix m), ht.busy, ?_, ⟨b, ho⟩,
    hwire.trans huw, htail.trans (hup.trans hrest)⟩
  rw [State.cmdReady, ht.busy]
  rfl

end

section
/-! PROOFS. The invariant of a run (rules R7, R21 to R25, R33, R115, R121): it holds at reset, and every step keeps it.
Its clauses are those on the data and those on the walk; a state meets the latter in one of three ways. -/

namespace Sys2Proof.Machine

variable {s t : State} {b : Transfer} {c : Config} {bytes : List Byte} {p p' : Phase} {n n' a k : Nat} {w : Word}
  {i : Instr} {m : Memory} {full : Bool}

/-! ### The clauses on the data -/

/-- The clauses of `RunInv` on `storage`, of `n` bytes, every one of them specified where `full` says so. -/
structure StorageInv (n : Nat) (full : Bool) (m : Memory) : Prop where
  canonical : m.wf
  bounded : ∀ p ∈ m.cells, p.1 < n
  specified : full = true → ∀ a < n, (m.lookup a).isSome

/-- The clauses of `RunInv` that do not speak of the walk, on the parts of the state that they read. -/
structure DataClauses (c : Config) (m : Memory) (r : Resp) (initDone errXfer : Bool) : Prop where
  configured : c.WellFormed
  storage : StorageInv c.fbBytes initDone m
  hardwired : errXfer = true → c.fallible = true
  missIsZero : r.hit = false → r.native = 0
  nativeFits : r.native.toNat ≤ c.maxNative

/-- The clauses of `RunInv` that do not speak of the walk. -/
abbrev State.DataInv (s : State) : Prop :=
  DataClauses s.cfg s.storage s.resp s.status.initDone s.status.errXfer

theorem RunInv.data (h : RunInv s) : s.DataInv where
  configured := h.configured
  storage := ⟨h.canonical, h.bounded, h.specified⟩
  hardwired := h.hardwired
  missIsZero := h.missIsZero
  nativeFits := h.nativeFits

theorem StorageInv.empty (n : Nat) : StorageInv n false ⟨[]⟩ := ⟨Memory.empty_wf, nofun, nofun⟩

theorem StorageInv.write (h : StorageInv n full m) (ha : a < n) (v : Byte) : StorageInv n full (m.write a v) where
  canonical := Memory.write_wf a v h.canonical
  bounded p hp := by
    obtain rfl | hp := Memory.mem_write hp
    · exact ha
    · exact h.bounded p hp
  specified hf k hk := by
    rw [Memory.lookup_write]
    split
    · rfl
    · exact h.specified hf k hk

/-- A fill specifies every byte (R92, R112). -/
theorem StorageInv.fill (h : StorageInv n full m) (v : Byte) (full' : Bool) : StorageInv n full' (m.fill v n) where
  canonical := Memory.fill_wf v n h.canonical
  bounded p hp := (Memory.mem_fill hp).elim id (h.bounded p)
  specified _ k hk := by
    rw [Memory.lookup_fill, if_pos hk]
    rfl

/-- The data at a reset, whatever `storage` held before (R33). -/
theorem dataClauses_reset (h : c.WellFormed) : DataClauses c ⟨[]⟩ ⟨false, 0⟩ false false :=
  ⟨h, StorageInv.empty _, nofun, fun _ => rfl, Nat.zero_le _⟩

/-! ### The three ways to meet the invariant -/

/-- The clauses of `RunInv` on the walk. -/
structure State.WalkInv (s : State) : Prop where
  freeIsIdle : s.status.busy = false → s.phase = .idle
  busyIsLegal : s.status.busy = true → ∃ i, s.latched = .legal i
  walkIsDriver : s.phase ≠ .idle → s.latched = .legal .init ∨ s.latched = .legal .flush
  fillIsInit : s.phase = .initSeq ∨ s.phase = .zero → s.latched = .legal .init
  cursor : s.cursorInBounds
  flushAfterInit : s.phase.flushing = true → s.status.initDone = true
  zeroed : s.phase = .zero → ∀ a < s.cursor, s.storage.lookup a = some 0

theorem DataClauses.runInv (h : s.DataInv) (hw : s.WalkInv) : RunInv s :=
  { h, h.storage, hw with }

/-- An idle sequencer: between commands, or with a legal command about to be executed. -/
theorem DataClauses.runInv_idle (h : s.DataInv) (hp : s.phase = .idle) (hcur : s.cursor = 0)
    (hl : s.status.busy = true → ∃ i, s.latched = .legal i) : RunInv s :=
  h.runInv
    { freeIsIdle := fun _ => hp
      busyIsLegal := hl
      walkIsDriver := absurd hp
      fillIsInit := by simp [hp]
      cursor := by
        rw [State.cursorInBounds, hp]
        exact hcur
      flushAfterInit := by simp [hp, Phase.flushing]
      zeroed := by simp [hp] }

/-- INIT in its sequence or its zero-fill (R121). -/
theorem DataClauses.runInv_filling (h : s.DataInv) (hb : s.status.busy = true) (hl : s.latched = .legal .init)
    (hp : s.phase = .initSeq ∨ s.phase = .zero) (hcur : s.cursorInBounds)
    (hz : s.phase = .zero → ∀ a < s.cursor, s.storage.lookup a = some 0) : RunInv s :=
  h.runInv
    { freeIsIdle := by simp [hb]
      busyIsLegal := fun _ => ⟨.init, hl⟩
      walkIsDriver := fun _ => .inl hl
      fillIsInit := fun _ => hl
      cursor := hcur
      flushAfterInit := by obtain hp | hp := hp <;> simp [hp, Phase.flushing]
      zeroed := hz }

/-- INIT or FLUSH in its flush (R121). -/
theorem DataClauses.runInv_flushing (h : s.DataInv) (hb : s.status.busy = true)
    (hl : s.latched = .legal .init ∨ s.latched = .legal .flush) (hp : s.phase.flushing = true)
    (hcur : s.cursorInBounds) (hd : s.status.initDone = true) : RunInv s :=
  h.runInv
    { freeIsIdle := by simp [hb]
      busyIsLegal := fun _ => hl.elim (⟨.init, ·⟩) (⟨.flush, ·⟩)
      walkIsDriver := fun _ => hl
      fillIsInit := by rintro (hf | hf) <;> simp [hf, Phase.flushing] at hp
      cursor := hcur
      flushAfterInit := fun _ => hd
      zeroed := fun hz => by simp [hz, Phase.flushing] at hp }

/-! ### What keeps the invariant -/

/-- The invariant says nothing of the transport port's history and inputs. -/
theorem RunInv.withPort (h : RunInv s) (wire : List Transfer) (ready fail : List Bool) :
    RunInv { s with wire := wire, readyIn := ready, failIn := fail } :=
  ⟨h.configured, h.canonical, h.bounded, h.freeIsIdle, h.busyIsLegal, h.walkIsDriver, h.fillIsInit, h.cursor,
    h.flushAfterInit, h.hardwired, h.missIsZero, h.nativeFits, h.specified, h.zeroed⟩

theorem runInv_resetBlock (h : s.cfg.WellFormed) : RunInv s.resetBlock :=
  DataClauses.runInv_idle (dataClauses_reset h) rfl rfl nofun

/-- An error other than `err_xfer`, raised before any walk. -/
theorem DataClauses.runInv_raise (h : s.DataInv) (hcur : s.cursor = 0) {e : ErrorFlag} (he : e ≠ .xfer) :
    RunInv (s.raise e) := by
  have hdata : (s.raise e).DataInv := by
    cases e with
    | illegal | noinit => exact h
    | xfer => exact absurd rfl he
  exact hdata.runInv_idle rfl hcur nofun

/-- Only a fallible transport fails a transfer (R24, R125). -/
theorem DataClauses.runInv_failTransfer (h : s.DataInv) (hf : s.cfg.fallible = true) : RunInv s.failTransfer :=
  DataClauses.runInv_idle (s := s.failTransfer) { h with hardwired := fun _ => hf } rfl rfl nofun

theorem RunInv.beginInit (h : RunInv s) (hl : s.latched = .legal .init) : RunInv s.beginInit :=
  DataClauses.runInv_filling (s := s.beginInit) h.data rfl hl (.inl rfl) (Nat.zero_le _) nofun

theorem RunInv.beginFlush (h : RunInv s) (hp : s.phase = .idle) (hl : s.latched = .legal .flush)
    (hd : s.status.initDone = true) : RunInv s.beginFlush :=
  DataClauses.runInv_flushing (s := s.beginFlush) h.data rfl (.inr hl) rfl (h.cursor.eq_zero hp) hd

/-! ### Commands -/

theorem errXfer_of_errors (h : t.errors = s.errors) : t.status.errXfer = s.status.errXfer := by
  obtain ⟨-, -, hx⟩ := State.errors_eq_iff.mp h
  exact hx

theorem SendEffect.hardwired (h : SendEffect k s t) (hs : s.status.errXfer = true → s.cfg.fallible = true)
    (ht : t.status.errXfer = true) : s.cfg.fallible = true := by
  obtain h | ⟨-, n, -, hfail, -, -⟩ := h
  · exact hs ((errXfer_of_errors h).symm.trans ht)
  · exact fallible_of_sinkFailsAt hfail

/-- A command raises `err_xfer` for a transfer that the sink fails (R125). -/
theorem exec_hardwired (h : exec i s = .next t) (hs : s.status.errXfer = true → s.cfg.fallible = true)
    (ht : t.status.errXfer = true) : s.cfg.fallible = true := by
  obtain h | ⟨-, -, h⟩ | ⟨-, -, h⟩ | ⟨-, h⟩ := exec_errors h
  · exact hs ((errXfer_of_errors h).symm.trans ht)
  · exact hs ((errXfer_of_errors (s := s.raise .noinit) h).symm.trans ht)
  · exact h.hardwired hs ht
  · exact h.hardwired hs ht

/-- Every command keeps the clauses on the data: its writes lie in `storage`, INIT fills it before it sets
`init_done`, and GETPIXEL reports a native value. -/
theorem exec_dataInv (h : s.DataInv) (he : exec i s = .next t) : t.DataInv := by
  have hx := exec_hardwired he h.hardwired
  cases exec_result he with
  | nop | pixelOutside | flushRefused | flushBegun | flushed | initBegun => exact h
  | flushFailed | sequenceFailed => exact { h with hardwired := hx }
  | pixelSet inside => exact { h with storage := h.storage.write (addr_lt h.configured inside) _ }
  | filled => exact { h with storage := h.storage.fill _ _ }
  | initialised => exact { h with storage := h.storage.fill _ _ }
  | initFlushFailed => exact { h with storage := h.storage.fill _ _, hardwired := hx }
  | pixelRead => exact { h with missIsZero := nofun, nativeFits := extract_le h.configured _ _ }
  | readMissed => exact { h with missIsZero := fun _ => rfl, nativeFits := Nat.zero_le _ }

/-- A command leaves the sequencer idle, or is an INIT or FLUSH that has begun its walk (R186). -/
theorem exec_idle_or_begun (he : exec i s = .next t) (hp : s.phase = .idle) (hcur : s.cursor = 0) :
    (t.phase = .idle ∧ t.cursor = 0) ∨ (i = .init ∧ t = s.beginInit) ∨
      (i = .flush ∧ s.status.initDone = true ∧ t = s.beginFlush) := by
  cases exec_result he with
  | nop | pixelSet | pixelOutside | filled | pixelRead | readMissed => exact .inl ⟨hp, hcur⟩
  | flushRefused => exact .inl ⟨rfl, hcur⟩
  | flushed | flushFailed | initialised | sequenceFailed | initFlushFailed => exact .inl ⟨rfl, rfl⟩
  | initBegun => exact .inr (.inl ⟨rfl, rfl⟩)
  | flushBegun done => exact .inr (.inr ⟨rfl, done, rfl⟩)

/-- The big step of the command in the latches. -/
theorem RunInv.finish_exec (h : RunInv s) (hp : s.phase = .idle) (hl : s.latched = .legal i)
    (hs : finish (exec i s) = .next t) : RunInv t := by
  obtain ⟨u, hu, rfl⟩ := finish_next hs
  obtain ⟨hidle, hzero⟩ | ⟨rfl, rfl⟩ | ⟨rfl, hd, rfl⟩ := exec_idle_or_begun hu hp (h.cursor.eq_zero hp)
  · have hdata : u.DataInv := exec_dataInv h.data hu
    rw [if_pos hidle]
    exact DataClauses.runInv_idle (s := u.complete) hdata hidle hzero nofun
  · exact h.beginInit hl
  · exact h.beginFlush hp hl hd

/-- The small step that accepts a command. -/
theorem RunInv.beginCommand (h : RunInv s) (hp : s.phase = .idle) (hl : s.latched = .legal i)
    (hs : beginCommand i s = .next t) : RunInv t := by
  cases i with
  | init =>
    cases hs
    exact h.beginInit hl
  | flush =>
    cases hd : s.status.initDone with
    | true =>
      cases (beginCommand_flush hd).symm.trans hs
      exact h.beginFlush hp hl hd
    | false =>
      cases (beginCommand_flush_early hd).symm.trans hs
      exact h.data.runInv_raise (h.cursor.eq_zero hp) nofun
  | nop | setPixel x y v | fill v | getPixel x y =>
    cases hs
    exact h

/-! ### A busy block -/

theorem RunInv.runLatched (h : RunInv s) (hb : s.status.busy = true) (hp : s.phase = .idle)
    (hs : runLatched s = .next t) : RunInv t := by
  obtain ⟨i, hl⟩ := h.busyIsLegal hb
  rw [Machine.runLatched, hl] at hs
  cases i with
  | init | flush => exact h.beginCommand hp hl hs
  | nop | setPixel x y v | fill v | getPixel x y => exact h.finish_exec hp hl hs

/-- A row that sends a byte stays in INIT's sequence or in the flush. -/
theorem SendRow.phases (row : SendRow c bytes p n b p' n') :
    (p = .initSeq ∧ p' = .initSeq) ∨ (p.flushing = true ∧ p'.flushing = true) := by
  cases row with
  | sequence => exact .inl ⟨rfl, rfl⟩
  | colCmd | colMin | colMax | rowCmd | rowMin | rowMax | writeRam | stream => exact .inr ⟨rfl, rfl⟩

theorem Phase.ne_idle_of_flushing (h : p.flushing = true) : p ≠ .idle := by
  rintro rfl
  cases h

/-- A row of the step table that sends a byte (R121). -/
theorem RunInv.moveTo (h : RunInv s) (hb : s.status.busy = true) (hat : s.At c bytes p n)
    (row : SendRow c bytes p n b p' n') : RunInv (s.moveTo p' n') := by
  have hcur := row.cursorInBounds hat h.configured h.cursor
  obtain ⟨rfl, rfl⟩ | ⟨hp, hp'⟩ := row.phases
  · exact DataClauses.runInv_filling (s := s.moveTo .initSeq n') h.data hb (h.fillIsInit (.inl hat.phase))
      (.inl rfl) hcur nofun
  · rw [← hat.phase] at hp
    exact DataClauses.runInv_flushing (s := s.moveTo p' n') h.data hb
      (h.walkIsDriver (Phase.ne_idle_of_flushing hp)) hp' hcur (h.flushAfterInit hp)

/-- A byte offered: the sink stalls, fails it, or takes it and the walk goes on (R32, R121, R125). -/
theorem RunInv.offered (h : RunInv s) (ho : s.txOffer = some b)
    (htaken : RunInv (s.awaited.transfer b).afterByte) (hs : runStep s = .next t) : RunInv t := by
  cases hr : s.readyIn.head?.getD s.readyAfter with
  | false =>
    cases (runStep_stalled ho hr).symm.trans hs
    exact h.withPort _ _ _
  | true =>
    cases (runStep_taken ho hr).symm.trans hs
    rw [State.byteTaken]
    split
    next hf =>
      have hfallible : s.cfg.fallible = true := fallible_of_sinkFailsAt (s.sinkFailsAt_zero.trans hf)
      exact DataClauses.runInv_failTransfer (s := s.awaited.transfer b) h.data hfallible
    next => exact htaken

theorem RunInv.sendRow (h : RunInv s) (hb : s.status.busy = true) (hp : s.phase = p)
    (row : SendRow s.cfg s.streamBytes p s.cursor b p' n') (hs : runStep s = .next t) : RunInv t := by
  have hat : s.At s.cfg s.streamBytes p s.cursor := ⟨rfl, rfl, hp, rfl⟩
  refine h.offered (row.txOffer hat hb) ?_ hs
  rw [row.afterByte hat]
  exact (h.moveTo hb hat row).withPort _ _ _

/-- INIT's sequence: its next byte, or its end (R121). -/
theorem RunInv.sequence_step (h : RunInv s) (hb : s.status.busy = true) (hp : s.phase = .initSeq)
    (hs : runStep s = .next t) : RunInv t := by
  obtain hend | hlt := Nat.eq_or_lt_of_le (h.cursor.le_sequence hp)
  · cases (sequencerStep_sequence_end hp hend).symm.trans ((runStep_busy hb).symm.trans hs)
    exact DataClauses.runInv_filling (s := s.moveTo .zero 0) h.data hb (h.fillIsInit (.inl hp)) (.inr rfl)
      h.configured.fbBytes_pos nofun
  · exact h.sendRow hb hp (.sequence (List.getElem?_eq_getElem hlt)) hs

/-- The zero-fill: up to its cursor `storage` is zero, so its last byte specifies all of it (R112, R121). -/
theorem RunInv.zero_step (h : RunInv s) (hb : s.status.busy = true) (hp : s.phase = .zero)
    (hs : zeroStep s = .next t) : RunInv t := by
  have hlt : s.cursor < s.cfg.fbBytes := h.cursor.lt_fbBytes (.inl hp)
  have hl : s.latched = .legal .init := h.fillIsInit (.inr hp)
  have hstorage := h.data.storage.write hlt 0
  have hzero : ∀ a < s.cursor + 1, (s.storage.write s.cursor 0).lookup a = some 0 := by
    intro a ha
    rw [Memory.lookup_write]
    split
    · rfl
    · exact h.zeroed hp a (by omega)
  obtain hlast | hmore := Nat.eq_or_lt_of_le (Nat.succ_le_of_lt hlt)
  · cases (zeroStep_last hlast).symm.trans hs
    have hspec : ∀ a < s.cfg.fbBytes, ((s.storage.write s.cursor 0).lookup a).isSome := by
      intro a ha
      rw [hzero a (by omega)]
      rfl
    exact DataClauses.runInv_flushing { h.data with storage := { hstorage with specified := fun _ => hspec } } hb
      (.inl hl) rfl rfl rfl
  · cases (zeroStep_more hmore).symm.trans hs
    refine DataClauses.runInv_filling { h.data with storage := hstorage } hb hl (.inr hp) ?_ fun _ => hzero
    rw [State.cursorInBounds, hp]
    exact hmore

/-- The stream: its next byte, or its last (R119, R121). -/
theorem RunInv.stream_step (h : RunInv s) (hb : s.status.busy = true) (hp : s.phase = .fStream)
    (hs : runStep s = .next t) : RunInv t := by
  have hlt : s.cursor < s.cfg.fbBytes := h.cursor.lt_fbBytes (.inr hp)
  obtain hlast | hmore := Nat.eq_or_lt_of_le (Nat.succ_le_of_lt hlt)
  · refine h.offered (txOffer_streaming hb hp hlt) ?_ hs
    rw [afterByte_stream_last hp hlast]
    exact DataClauses.runInv_idle h.data rfl rfl nofun
  · exact h.sendRow hb hp (.stream (s.streamBytes_getElem? hlt) hmore) hs

theorem RunInv.busy_step (h : RunInv s) (hb : s.status.busy = true) (hs : runStep s = .next t) : RunInv t := by
  have hseq : sequencerStep s = .next t := (runStep_busy hb).symm.trans hs
  cases hp : s.phase with
  | idle => exact h.runLatched hb hp ((sequencerStep_idle hp).symm.trans hseq)
  | initSeq => exact h.sequence_step hb hp hs
  | zero => exact h.zero_step hb hp ((sequencerStep_zero hp).symm.trans hseq)
  | fColCmd => exact h.sendRow hb hp .colCmd hs
  | fColMin => exact h.sendRow hb hp .colMin hs
  | fColMax => exact h.sendRow hb hp .colMax hs
  | fRowCmd => exact h.sendRow hb hp .rowCmd hs
  | fRowMin => exact h.sendRow hb hp .rowMin hs
  | fRowMax => exact h.sendRow hb hp .rowMax hs
  | fWram => exact h.sendRow hb hp .writeRam hs
  | fStream => exact h.stream_step hb hp hs

/-! ### An idle block, and the step -/

/-- A legal word accepted waits in the latches (R144). -/
theorem RunInv.accept (h : RunInv s) (hp : s.phase = .idle) (hd : decode w = .legal i) : RunInv (s.accept w) :=
  DataClauses.runInv_idle (s := s.accept w) h.data hp (h.cursor.eq_zero hp) fun _ => ⟨i, latched_accept hd s⟩

theorem RunInv.issue (h : RunInv s) (hp : s.phase = .idle) (hs : issue w s = .next t) : RunInv t := by
  cases hd : decode w with
  | illegal why =>
    cases (issue_illegal h.configured hd).symm.trans hs
    exact DataClauses.runInv_raise (s := s.accept w) h.data (h.cursor.eq_zero hp) nofun
  | legal i =>
    have haccept : RunInv (s.accept w) := h.accept hp hd
    cases hv : s.view with
    | bigStep => exact haccept.finish_exec hp (latched_accept hd s) ((issue_bigStep hv hd).symm.trans hs)
    | smallStep => exact haccept.beginCommand hp (latched_accept hd s) ((issue_smallStep hv hd).symm.trans hs)

theorem RunInv.runStep (h : RunInv s) (hs : runStep s = .next t) : RunInv t := by
  cases hb : s.status.busy with
  | true => exact h.busy_step hb hs
  | false =>
    cases hprog : s.program with
    | nil =>
      cases (runStep_waiting hb hprog).symm.trans hs
      exact h
    | cons w rest => exact h.issue (h.freeIsIdle hb) ((runStep_issues hb hprog).symm.trans hs)

theorem RunInv.step (h : RunInv s) (hs : step s = .next t) : RunInv t := by
  cases hr : s.rstAsserted with
  | true =>
    cases (step_of_rstHigh h.configured hr).symm.trans hs
    exact runInv_resetBlock h.configured
  | false => exact h.popRst.runStep ((step_of_rstLow h.configured hr).symm.trans hs)

end Sys2Proof.Machine

open Sys2Proof Sys2Proof.Machine

/-- Settles O5: nothing is listed at reset and the sequencer is idle. -/
theorem resetMeetsInvariant : Obligations.ResetMeetsInvariant :=
  DataClauses.runInv_idle (dataClauses_reset (by decide)) rfl rfl nofun

/-- Settles O6: a reset brings the data and the sequencer to their reset values; a busy block's step is a row of the
step table or executes the latched command; an idle block's step runs or begins the word presented. -/
theorem stepKeepsInvariant : Obligations.StepKeepsInvariant := fun _ _ h hs => h.step hs

/-- Settles O4: nothing is listed after a reset, so every byte is the free value of the resets counted. -/
theorem resetLeavesStorageFree : Obligations.ResetLeavesStorageFree :=
  ⟨fun _ => rfl, fun _ hc hr => ⟨_, step_of_rstHigh hc hr, rfl, fun _ => rfl, rfl, rfl⟩⟩

end

section
/-! PROOFS. The device behind the sink (rules R126, R127; log 12): a flush, sent after anything else, gives the window
its bounds and then fills it row by row. -/

namespace Sys2Proof.Machine

variable {s t : State} {c : Config} {d : Device} {sent bytes : List Byte} {b : Byte} {a k r : Nat} {i : Instr}

/-! ### The window of a flush -/

/-- The bytes the device's window registers hold once a flush has set them (R116). -/
def Device.windowSet (c : Config) (d : Device) : Prop :=
  d.cmin = some c.colMin ∧ d.cmax = some c.colMax ∧ d.rmin = some c.rowMin ∧ d.rmax = some c.rowMax

theorem Device.extent_of_windowSet (hc : c.WellFormed) (hm : c.windowMatches) (h : d.windowSet c) :
    d.extent c = (c.rowBytes, c.height) := by
  obtain ⟨hcmin, hcmax, hrmin, hrmax⟩ := h
  obtain ⟨hle, hwidth⟩ := hm
  have hcols : c.colMax.toNat + 1 - c.colMin.toNat = c.colMax.toNat - c.colMin.toNat + 1 := by omega
  have hrows : c.height - 1 + 1 - c.rowMin.toNat = c.height := by
    obtain ⟨-, -, -, -, hpos, -, -⟩ := hc
    exact Nat.sub_add_cancel hpos
  simp only [Device.extent, hcmin, hcmax, hrmin, hrmax, hcols, hwidth, hc.rowMax_toNat, hrows]

/-- The window holds exactly the framebuffer (R126, R182). -/
theorem Device.capacity_of_windowSet (hc : c.WellFormed) (hm : c.windowMatches) (h : d.windowSet c) :
    d.capacity c = c.fbBytes := by
  rw [Device.capacity, Device.extent_of_windowSet hc hm h, Nat.mul_comm]
  rfl

/-- Where byte `a` of the stream lies: windows of the same bounds have it at the same place. -/
def Device.placeOf (c : Config) (d : Device) (a : Nat) : Nat × Nat :=
  d.place c (a / c.rowBytes) (a % c.rowBytes)

theorem Device.placeOf_inj (d : Device) {a a' : Nat} (h : d.placeOf c a = d.placeOf c a') : a = a' := by
  obtain ⟨hrow, hcol⟩ := Prod.mk.inj h
  rw [← Nat.div_add_mod a c.rowBytes, ← Nat.div_add_mod a' c.rowBytes, Nat.add_left_cancel hrow,
    Nat.add_left_cancel hcol]

theorem Device.placeOf_row (d : Device) (hk : k < c.rowBytes) :
    d.placeOf c (r * c.rowBytes + k) = d.place c r k := by
  have hpos : 0 < c.rowBytes := Nat.zero_lt_of_lt hk
  rw [Device.placeOf, Nat.mul_comm, Nat.mul_add_div hpos, Nat.mul_add_mod, Nat.div_eq_of_lt hk, Nat.mod_eq_of_lt hk,
    Nat.add_zero]

theorem windowByte_lt (hr : r < c.height) (hk : k < c.rowBytes) : r * c.rowBytes + k < c.fbBytes :=
  calc r * c.rowBytes + k < (r + 1) * c.rowBytes := by
        rw [Nat.succ_mul]
        exact Nat.add_lt_add_left hk _
    _ ≤ c.fbBytes := Nat.mul_le_mul_right _ hr

/-! ### The stream -/

/-- The device in the stream of a flush, with the bytes `sent` taken, each at its place in the window. -/
structure Device.Streamed (c : Config) (sent : List Byte) (d : Device) : Prop where
  mode : d.mode = .stream
  window : d.windowSet c
  taken : d.taken = sent.length
  holds : ∀ a < sent.length, ramByte d.ram (d.placeOf c a) = sent[a]?

/-- The next byte of the stream lies at a place of its own. -/
theorem Device.Streamed.takeData (hc : c.WellFormed) (hm : c.windowMatches) (h : d.Streamed c sent)
    (hroom : sent.length < c.fbBytes) (b : Byte) : (d.takeData c b).Streamed c (sent ++ [b]) := by
  obtain ⟨hmode, hwindow, htaken, hholds⟩ := h
  have hnext : d.takeData c b = { d with ram := (d.placeOf c sent.length, b) :: d.ram, taken := d.taken + 1 } := by
    have hlt : sent.length < d.capacity c := by rwa [Device.capacity_of_windowSet hc hm hwindow]
    simp only [Device.takeData, hmode, htaken, if_pos hlt, Device.extent_of_windowSet hc hm hwindow, Device.placeOf]
  rw [hnext]
  refine ⟨hmode, hwindow, ?_, fun a ha => ?_⟩
  · rw [htaken, List.length_append]
    rfl
  · show (if d.placeOf c sent.length = d.placeOf c a then some b else ramByte d.ram (d.placeOf c a)) = _
    obtain rfl | hlt := Nat.eq_or_lt_of_le (Nat.le_of_lt_succ (by simpa using ha))
    · rw [if_pos rfl, List.getElem?_concat_length]
    · rw [if_neg fun heq => (Nat.ne_of_gt hlt) (d.placeOf_inj heq), hholds a hlt, List.getElem?_append_left hlt]

theorem Device.Streamed.takeBulk (hc : c.WellFormed) (hm : c.windowMatches) (h : d.Streamed c sent)
    (hroom : sent.length + bytes.length ≤ c.fbBytes) :
    ((bulkTransfers bytes).foldl (Device.take c) d).Streamed c (sent ++ bytes) := by
  induction bytes generalizing d sent with
  | nil => rwa [List.append_nil]
  | cons b bytes ih =>
    rw [List.length_cons] at hroom
    have hnext : (d.takeData c b).Streamed c (sent ++ [b]) := h.takeData hc hm (by omega) b
    rw [List.append_cons]
    refine ih hnext ?_
    rw [List.length_append, List.length_singleton]
    omega

/-! ### A flush -/

/-- The transfers of a flush ahead of the bulk put the device at the start of the stream, whatever it was. -/
theorem Device.streamed_of_window (hd : c.distinctCommands) (d : Device) :
    ((transfersOf (flushEvents c [])).foldl (Device.take c) d).Streamed c [] := by
  obtain ⟨hcolrow, hcolram, hrowram⟩ := hd
  simp only [transfersOf_flushEvents, bulkTransfers, List.append_nil, List.foldl_cons, List.foldl_nil, Device.take,
    Device.takeCommand, Device.takeData, Device.beforeCommand, if_true, if_false, Bool.false_eq_true, hcolrow.symm,
    hcolram.symm, hrowram.symm]
  exact ⟨rfl, ⟨rfl, rfl, rfl, rfl⟩, rfl, nofun⟩

theorem transfersOf_flushEvents_append (c : Config) (bytes : List Byte) :
    transfersOf (flushEvents c bytes) = transfersOf (flushEvents c []) ++ bulkTransfers bytes := by
  rw [transfersOf_flushEvents, transfersOf_flushEvents]
  rfl

theorem Device.streamed_of_flush (hc : c.WellFormed) (hd : c.distinctCommands) (hm : c.windowMatches)
    (hlen : bytes.length = c.fbBytes) (ts : List Transfer) :
    (Device.after c (ts ++ transfersOf (flushEvents c bytes))).Streamed c bytes := by
  rw [Device.after, transfersOf_flushEvents_append, List.foldl_append, List.foldl_append]
  exact (Device.streamed_of_window hd _).takeBulk hc hm ((Nat.zero_add _).trans hlen).le

/-- After a completed flush the window holds the bytes sent, row by row, whatever was sent before (R127). -/
theorem panelByte_flushDone (hc : s.cfg.WellFormed) (hd : s.cfg.distinctCommands) (hm : s.cfg.windowMatches)
    (hlen : bytes.length = s.cfg.fbBytes) (before : List Transfer) (ready fail : List Bool) (hr : r < s.cfg.height)
    (hk : k < s.cfg.rowBytes) :
    (s.sent (before ++ transfersOf (flushEvents s.cfg bytes)) ready fail).flushDone.panelByte r k =
      bytes[r * s.cfg.rowBytes + k]? := by
  have hdev := Device.streamed_of_flush hc hd hm hlen (s.wire ++ before)
  rw [List.append_assoc] at hdev
  have hholds := hdev.holds _ (hlen ▸ windowByte_lt hr hk)
  rw [Device.placeOf_row _ hk] at hholds
  exact hholds

/-- A command that sends nothing leaves what is known of the device (R53, R178). -/
theorem panelByte_congr (hc : t.cfg = s.cfg) (hw : t.wire = s.wire) (hd : t.deviceStale = s.deviceStale) (r k : Nat) :
    t.panelByte r k = s.panelByte r k := by
  rw [State.panelByte, hc, hw, hd, State.panelByte]

end Sys2Proof.Machine

open Sys2Proof Sys2Proof.Machine

/-- Settles O49: FLUSH ends in a flush of `storage` and INIT in one of zeros, which fills the window whatever was sent
before; the other commands send nothing. -/
theorem deviceHoldsTheFrame : Obligations.DeviceHoldsTheFrame := by
  intro s hc hf hd hm
  refine ⟨fun hready hinit => ⟨_, exec_flush_of_ready hc hinit hready, fun r hr k hk => ?_⟩,
    fun hready => ⟨_, exec_init_of_ready hc hready, fun r hr k hk => ?_⟩, fun i u hni hnf hu r k => ?_⟩
  · rw [flushState_infallible_eq hf]
    exact (panelByte_flushDone hc hd hm s.streamBytes_length [] _ _ hr hk).trans
      (s.streamBytes_getElem? (windowByte_lt hr hk))
  · have hzeros : (List.replicate s.cfg.fbBytes (0 : Byte))[r * s.cfg.rowBytes + k]? = some 0 :=
      List.getElem?_replicate_of_lt (windowByte_lt hr hk)
    rw [initState_infallible_eq hf, transfersOf_append]
    exact (panelByte_flushDone (s := zeroFilled s) hc hd hm List.length_replicate _ _ _ hr hk).trans hzeros
  · obtain ⟨⟨hcfg, -⟩, -⟩ := whoWritesWhat i s u hu
    obtain ⟨hwire, -, -, hstale, -⟩ := exec_quiet hu hni hnf
    exact panelByte_congr hcfg hwire hstale r k

end

section
/-! PROOFS. Sample words of the encoding (95_test_vectors.md). -/

open Sys2Proof Sys2Proof.Machine

/-- Settles O12: the decoder is computed on the nine words. -/
theorem sampleWordsDecode : Obligations.SampleWordsDecode := by
  unfold Obligations.SampleWordsDecode
  decide

end
